-- ==== Sys2Proof/Word.lean ====
section
/-! DEFINITION. The word types of the core: 32-bit values and 5-bit register indices (10_state.md R30, R35, R40). -/

namespace Sys2Proof

/-- A 32-bit value: a register, a data-memory word, an ALU result, an address, the pc (R8 `XLEN`, `WORD`, `PCLEN`). -/
abbrev Word := BitVec 32

/-- A register index of a decoded instruction: 5 bits (R40, R104). -/
abbrev RegIx := BitVec 5

/-- A signed operand field of a raw instruction: 32-bit two's complement (R101, decision D5). -/
abbrev Field := BitVec 32

end Sys2Proof
end

