-- ==== Sys2Proof/Config.lean ====
section
/-! DEFINITION. The parameters of 00_scope.md R8 that have a fixed value in this hardware, and the type of the
one that is open and unobservable (`BYTE_ORDER`). The spec leaves no value free (93_implementation_defined.md), so
this file declares no opaque constant. -/

namespace Sys2Proof.Config

/-- `NREGS`: the number of general registers (R8, R30). -/
abbrev nregs : Nat := 32

/-- `DMEM_WORDS`: the number of data-memory words (R8, R70). -/
abbrev dmemWords : Nat := 16

/-- `ILEN`: the address units one instruction occupies (R8, R103). -/
abbrev ilen : Nat := 4

/-- `LUI_SHIFT` (R8, R224). -/
abbrev luiShift : Nat := 12

/-- A program has fewer lines than this (R8 `PROG`, decision D27). -/
abbrev progLimit : Nat := 2 ^ 30

/-- `BYTE_ORDER` (R8, R73): OPEN and unobservable. No definition of the machine takes one; only the byte-addressed
view of the data memory does (`Machine.Memory.byteAt`), which no instruction uses. -/
inductive ByteOrder where
  | little
  | big
  deriving DecidableEq, Repr

end Sys2Proof.Config
end

