-- ==== Sys2Proof/Syntax.lean ====
section
/-! DEFINITION. The syntax of 30_encoding.md: the raw instruction record, the tokens, the decoded record, and the
seven instructions of spec/opcode_table.json, one constructor each. -/

namespace Sys2Proof

/-- A raw instruction `tok, f0, f1, f2` (R101): a 4-bit token code and three signed 32-bit operand fields. -/
structure Raw where
  tok : BitVec 4
  f0 : Field
  f1 : Field
  f2 : Field
  deriving DecidableEq, Repr

/-- The nine tokens of R100: the seven instructions, the sentinel `NOP`, and `UNKNOWN`. -/
inductive Token where
  | add | addi | lw | sw | beq | blt | lui | nop | unknown
  deriving DecidableEq, Repr

/-- The seven opcode codes of a decoded instruction (R104). Code 7 is never produced, so it has no constructor. -/
inductive Op where
  | add | addi | lw | sw | beq | blt | lui
  deriving DecidableEq, Repr

/-- The decoded instruction `op, rd, rs1, rs2, imm` (R104). -/
structure Decoded where
  op : Op
  rd : RegIx
  rs1 : RegIx
  rs2 : RegIx
  imm : Word
  deriving DecidableEq, Repr

/-- The instructions of spec/opcode_table.json. The arguments are the three operand fields in the positional order
`f0 f1 f2` of R105, each the raw 32-bit signed field: a register-role field may hold any number, and `WellFormed`
is the check of R112 that it names a register. LUI keeps its unused third field, because the latches hold the whole
raw instruction (R40, R113). -/
inductive Instr where
  | add (rd rs1 rs2 : Field)
  | addi (rd rs1 imm : Field)
  | lw (rd imm rs1 : Field)
  | sw (rs2 imm rs1 : Field)
  | beq (rs1 rs2 imm : Field)
  | blt (rs1 rs2 imm : Field)
  | lui (rd imm unused : Field)
  deriving DecidableEq, Repr

end Sys2Proof
end

