-- ==== Sys2Proof/WellFormed.lean ====
section
/-! DEFINITION. When an instruction is well formed: every register-role field of its format names one of the 32
registers (30_encoding.md R105, R112). Immediates and LUI's unused field are never checked (R111, R113). -/

namespace Sys2Proof

/-- A register-role field lies in 0 to 31, read as a signed number (R112). -/
def regFieldOk (f : Field) : Bool := decide (0 ≤ f.toInt) && decide (f.toInt ≤ 31)

/-- The register-role fields of an instruction in field order `f0, f1, f2`: the list `regs` of R110. -/
def Instr.regFields : Instr → List Field
  | .add rd rs1 rs2 => [rd, rs1, rs2]
  | .addi rd rs1 _ => [rd, rs1]
  | .lw rd _ rs1 => [rd, rs1]
  | .sw rs2 _ rs1 => [rs2, rs1]
  | .beq rs1 rs2 _ => [rs1, rs2]
  | .blt rs1 rs2 _ => [rs1, rs2]
  | .lui rd _ _ => [rd]

/-- Every register-role field names a register (R112). -/
def WellFormed (i : Instr) : Bool := i.regFields.all regFieldOk

end Sys2Proof
end

