-- ==== Sys2Proof/Decode.lean ====
section
/-! DEFINITION. The decoder and the encoder of 30_encoding.md: the token codes (R102), the positional field contract
(R105, R106), `decode` (R110) with its rejections by name (R114), the packed 100-bit word (R102), `encode` (R117). -/

namespace Sys2Proof

/-- Why `decode` answers no instruction (R110, R114). -/
inductive Reject where
  /-- The sentinel `NOP`: no instruction at this address (R114). -/
  | sentinel
  /-- A token code of 8 to 15 (R102); the code is the `value` of the DecodeError (60_exceptions.md R280). -/
  | unknownMnemonic (code : BitVec 4)
  /-- A register-role field outside 0 to 31 (R112); the field is the `value` of the DecodeError (R280). -/
  | registerOutOfRange (value : Field)
  deriving DecidableEq, Repr

/-- The token a 4-bit code stands for (R102). Codes 8 to 15 all mean `UNKNOWN`. -/
def Token.ofCode (c : BitVec 4) : Token :=
  match c.toNat with
  | 0 => .add
  | 1 => .addi
  | 2 => .lw
  | 3 => .sw
  | 4 => .beq
  | 5 => .blt
  | 6 => .lui
  | 7 => .nop
  | _ => .unknown

/-- The 3-bit opcode code of a decoded instruction (R104). -/
def Op.code : Op → BitVec 3
  | .add => 0
  | .addi => 1
  | .lw => 2
  | .sw => 3
  | .beq => 4
  | .blt => 5
  | .lui => 6

/-- The token code of an opcode: the same number in 4 bits (R102). -/
def Op.tokenCode : Op → BitVec 4
  | .add => 0
  | .addi => 1
  | .lw => 2
  | .sw => 3
  | .beq => 4
  | .blt => 5
  | .lui => 6

/-- The sentinel `NOP` as a raw instruction: token code 7 (R102). The program source answers it past its last line. -/
def Raw.sentinel : Raw := { tok := 7, f0 := 0, f1 := 0, f2 := 0 }

/-- A raw record with every field 0. -/
def Raw.zero : Raw := { tok := 0, f0 := 0, f1 := 0, f2 := 0 }

/-- The decoded record with every field 0, which is `ADD x0, x0, x0` (R104, R201). -/
def Decoded.zero : Decoded := { op := .add, rd := 0, rs1 := 0, rs2 := 0, imm := 0 }

/-- Decoding selects on the token alone (R118) and keeps the fields where they stand. -/
def Raw.select (r : Raw) : Except Reject Instr :=
  match Token.ofCode r.tok with
  | .add => .ok (.add r.f0 r.f1 r.f2)
  | .addi => .ok (.addi r.f0 r.f1 r.f2)
  | .lw => .ok (.lw r.f0 r.f1 r.f2)
  | .sw => .ok (.sw r.f0 r.f1 r.f2)
  | .beq => .ok (.beq r.f0 r.f1 r.f2)
  | .blt => .ok (.blt r.f0 r.f1 r.f2)
  | .lui => .ok (.lui r.f0 r.f1 r.f2)
  | .nop => .error .sentinel
  | .unknown => .error (.unknownMnemonic r.tok)

/-- The first register-role field, in field order, that names no register (R110, R285 point 3). -/
def Instr.badField (i : Instr) : Option Field := i.regFields.find? (fun f => !regFieldOk f)

/-- The decoder on instructions (R110): the token selects the row, then the register-role fields are checked in order. -/
def decode (r : Raw) : Except Reject Instr :=
  match r.select with
  | .error e => .error e
  | .ok i =>
    match i.badField with
    | some f => .error (.registerOutOfRange f)
    | none => .ok i

/-- The 5-bit register index in a register-role field that has passed the check of R112. -/
def regIx (f : Field) : RegIx := f.setWidth 5

/-- The decoded record of an instruction: the positional contract of R105, every field the format does not populate
being 0 (R106). The immediate is copied unchanged (R111). -/
def Instr.record : Instr → Decoded
  | .add rd rs1 rs2 => { op := .add, rd := regIx rd, rs1 := regIx rs1, rs2 := regIx rs2, imm := 0 }
  | .addi rd rs1 imm => { op := .addi, rd := regIx rd, rs1 := regIx rs1, rs2 := 0, imm := imm }
  | .lw rd imm rs1 => { op := .lw, rd := regIx rd, rs1 := regIx rs1, rs2 := 0, imm := imm }
  | .sw rs2 imm rs1 => { op := .sw, rd := 0, rs1 := regIx rs1, rs2 := regIx rs2, imm := imm }
  | .beq rs1 rs2 imm => { op := .beq, rd := 0, rs1 := regIx rs1, rs2 := regIx rs2, imm := imm }
  | .blt rs1 rs2 imm => { op := .blt, rd := 0, rs1 := regIx rs1, rs2 := regIx rs2, imm := imm }
  | .lui rd imm _ => { op := .lui, rd := regIx rd, rs1 := 0, rs2 := 0, imm := imm }

/-- `decode` of R110 as the pipeline uses it: raw instruction to decoded record, or a rejection. -/
def decodeRecord (r : Raw) : Except Reject Decoded :=
  match decode r with
  | .ok i => .ok i.record
  | .error e => .error e

/-- The packed raw-instruction word of R102: `tok` in bits 99 to 96, then `f0`, `f1`, `f2`. -/
def Raw.pack (r : Raw) : BitVec 100 := r.tok ++ r.f0 ++ r.f1 ++ r.f2

/-- The raw instruction in a packed word (R102). -/
def Raw.unpack (w : BitVec 100) : Raw :=
  { tok := w.extractLsb' 96 4, f0 := w.extractLsb' 64 32, f1 := w.extractLsb' 32 32, f2 := w.extractLsb' 0 32 }

/-- The raw instruction of an instruction: its token and its fields at the positions of R105. -/
def encode : Instr → Raw
  | .add rd rs1 rs2 => { tok := 0, f0 := rd, f1 := rs1, f2 := rs2 }
  | .addi rd rs1 imm => { tok := 1, f0 := rd, f1 := rs1, f2 := imm }
  | .lw rd imm rs1 => { tok := 2, f0 := rd, f1 := imm, f2 := rs1 }
  | .sw rs2 imm rs1 => { tok := 3, f0 := rs2, f1 := imm, f2 := rs1 }
  | .beq rs1 rs2 imm => { tok := 4, f0 := rs1, f1 := rs2, f2 := imm }
  | .blt rs1 rs2 imm => { tok := 5, f0 := rs1, f1 := rs2, f2 := imm }
  | .lui rd imm unused => { tok := 6, f0 := rd, f1 := imm, f2 := unused }

/-- The packed word of an instruction (R102, R105). -/
def encodeWord (i : Instr) : BitVec 100 := (encode i).pack

/-- The encoder of R117 on decoded records: each field back to the position its format names, 0 elsewhere. -/
def Decoded.encode (d : Decoded) : Raw :=
  let x (r : RegIx) : Field := r.setWidth 32
  match d.op with
  | .add => { tok := d.op.tokenCode, f0 := x d.rd, f1 := x d.rs1, f2 := x d.rs2 }
  | .addi => { tok := d.op.tokenCode, f0 := x d.rd, f1 := x d.rs1, f2 := d.imm }
  | .lw => { tok := d.op.tokenCode, f0 := x d.rd, f1 := d.imm, f2 := x d.rs1 }
  | .sw => { tok := d.op.tokenCode, f0 := x d.rs2, f1 := d.imm, f2 := x d.rs1 }
  | .beq => { tok := d.op.tokenCode, f0 := x d.rs1, f1 := x d.rs2, f2 := d.imm }
  | .blt => { tok := d.op.tokenCode, f0 := x d.rs1, f1 := x d.rs2, f2 := d.imm }
  | .lui => { tok := d.op.tokenCode, f0 := x d.rd, f1 := d.imm, f2 := 0 }

/-- The packed word in the low `nbits` bits of `w`, as spec/opcode_table.json numbers them: bit 0 of the table is
bit 0 of the packed word of R102. `none` where a bit above the 100 of the packed word is set. DESIGN CHOICE, log entry 6:
safe. -/
def tableWord (nbits w : Nat) : Option (BitVec 100) :=
  let v := w % 2 ^ nbits
  if v < 2 ^ 100 then some (BitVec.ofNat 100 v) else none

/-- The raw instruction of a table word, its low 100 bits (R102). -/
def tableRaw (nbits w : Nat) : Raw := Raw.unpack (BitVec.ofNat 100 (w % 2 ^ nbits))

/-- The instruction the decoder reads from a table word; `none` where it refuses. -/
def decodeTableWord (nbits w : Nat) : Option Instr :=
  match tableWord nbits w with
  | none => none
  | some v =>
    match decode (Raw.unpack v) with
    | .ok i => some i
    | .error _ => none

end Sys2Proof
end

