-- ==== Sys2Proof/Machine/State.lean ====
section
/-! DEFINITION. The complete state of the block (10_state.md R30 to R47): register file, data memory, program
counter, the four latches, the fault record, the cycle counter and the `still_active` output, with the program source
it reads (00_scope.md R8 `PROG`); the outcomes that are no next state; and the state after reset (R47, R320). -/

namespace Sys2Proof.Machine

/-- Why a cycle of this block answers a fault instead of a next state. The three faults the spec describes
(DecodeError, MemoryBoundsError, BranchTargetError) are NOT here: the spec records them in state and halts the block
(60_exceptions.md R282), so they are next states. -/
inductive Fault where
  /-- Raised by the Decode sub-step when a valid FD latch holds the sentinel. R110 gives `decode` no value for `NOP`
  ("The caller handles the sentinel and never passes `NOP`"), and no run reaches such a state (R150). DEDUCED, log entry
  2: safe. -/
  | sentinelInDecode
  deriving DecidableEq, Repr

/-- Why the machine, or the host's start-up before it, has no meaning for what it is given. -/
inductive Refusal where
  /-- Raised only by an arm of `exec` whose instruction has no meaning yet; every instruction of this block has one,
  so nothing raises it. Safe. -/
  | notModelled (mnemonic : String)
  /-- Raised by `State.boot`: the program source cannot be read, and the block is never started (R286, U9). Safe. -/
  | programUnreadable
  /-- Raised by `State.boot`: a program of 2^30 lines or more (R8, decision D27, U16). Safe. -/
  | programTooLong
  /-- Raised by `Raw.ofLine`: an operand does not fit 32-bit two's complement (decision D5, U14). Safe. -/
  | operandTooWide
  /-- Raised by `Raw.ofLine`: a line with more than three operand fields (R6, U15). Safe. -/
  | tooManyOperands
  deriving DecidableEq, Repr

/-- The data memory: (word index, word) pairs in one canonical form (`Memory.wf` in Machine/Ops.lean): indices strictly
rising, all below 16, and no entry equal to 0, which is what an unlisted word reads as (R47, R70, R72). The unit is
the word: "The data memory has no byte view" (R73). DESIGN CHOICE, log entry 3: safe. -/
abbrev Memory := List (Nat × Word)

/-- The select of a forwarded-operand slot (R40): 0 the register file, 1 from MW, 2 from EM. -/
inductive FwdSel where
  | regFile | fromMW | fromEM
  deriving DecidableEq, Repr

/-- A forwarded-operand slot: a select and a 32-bit value (R40). -/
structure FwdSlot where
  sel : FwdSel
  val : Word
  deriving DecidableEq, Repr

/-- A pipeline latch (R40). All four latches have this record type. -/
structure Latch where
  valid : Bool
  raw : Raw
  dec : Decoded
  pc : Word
  alu : Word
  mdata : Word
  fwdA : FwdSlot
  fwdB : FwdSlot
  deriving DecidableEq, Repr

/-- The three fault codes (R280, R281, R283; decision D34). -/
inductive FaultCode where
  | decodeError | memoryBounds | branchTarget
  deriving DecidableEq, Repr

/-- The reason codes (R280): 0 none, 1 unknown mnemonic, 2 register field out of range. -/
inductive FaultReason where
  | none | unknownMnemonic | registerOutOfRange
  deriving DecidableEq, Repr

/-- `fault_info` (R45, R282). `value` is an exact integer: a token code, a signed field, an unsigned effective address,
or a branch target ("a signed 64-bit integer", R283). DEDUCED, log entry 8: safe. -/
structure FaultInfo where
  code : FaultCode
  reason : FaultReason
  cycle : Nat
  pc : Word
  value : Int
  deriving DecidableEq, Repr

/-- The state of the block. -/
structure State where
  /-- `x0` to `x31` (R30). -/
  regs : Vector Word 32
  /-- The data memory (R70, R72). -/
  mem : Memory
  /-- The address of the next instruction to fetch (R35). -/
  pc : Word
  /-- The Fetch/Decode latch (R40). -/
  fd : Latch
  /-- The Decode/Execute latch (R40). -/
  de : Latch
  /-- The Execute/Memory latch (R40). -/
  em : Latch
  /-- The Memory/Writeback latch (R40). -/
  mw : Latch
  /-- The sticky fault flag (R45). -/
  fault : Bool
  /-- The fault record's contents; `none` is "empty" (R45, R47). -/
  faultInfo : Option FaultInfo
  /-- The cycle counter, host-observable only (R46). DESIGN CHOICE, log entry 7, unbounded: unsafe only where hardware
  would wrap it. -/
  cycle : Nat
  /-- The `still_active` output: the result of the last `advance` (R10, R160). -/
  stillActive : Bool
  /-- The program source, line 0 first (R8 `PROG`, R80). A parameter of a run, not state the block writes (R12).
  DESIGN CHOICE, log entry 4: safe. -/
  prog : List Raw
  deriving DecidableEq, Repr

/-- A forwarded-operand slot that names the register file: `sel = 0, val = 0` (R190 rule 3). -/
def FwdSlot.none : FwdSlot := { sel := .regFile, val := 0 }

/-- A latch after reset: invalid, every other field 0 (R47). -/
def Latch.empty : Latch :=
  { valid := false, raw := Raw.zero, dec := Decoded.zero, pc := 0, alu := 0, mdata := 0,
    fwdA := FwdSlot.none, fwdB := FwdSlot.none }

/-- The block right after reset (R47, R320), with no program loaded: every line of the program source reads as the
sentinel. -/
def State.reset : State :=
  { regs := Vector.replicate 32 0
    mem := []
    pc := 0
    fd := Latch.empty
    de := Latch.empty
    em := Latch.empty
    mw := Latch.empty
    fault := false
    faultInfo := .none
    cycle := 0
    stillActive := true
    prog := [] }

end Sys2Proof.Machine
end

