-- ==== Sys2Proof/Machine/Ops.lean ====
section
/-! DEFINITION. The named operations over the state: registers (10_state.md), the two word accesses and the program
lookup (20_memory.md R74, R80), the latch and pc writes of the sub-steps, and entering a fault (60_exceptions.md R282),
which is how this block takes an exception. There is no return from one: only reset clears it (R284, R288). -/

namespace Sys2Proof.Machine

/-- `u32(n)`: an integer modulo 2^32 (R13). -/
def u32 (n : Int) : Word := BitVec.ofInt 32 n

/-! ### Registers -/

/-- `x[r]` (R13). `x0` is an ordinary register (R31). -/
def State.readReg (s : State) (r : RegIx) : Word := s.regs[r.toNat]'r.isLt

/-- `x[r] <- v` (R13), `x0` included (R31). -/
def State.writeReg (s : State) (r : RegIx) (v : Word) : State := { s with regs := s.regs.set r.toNat v r.isLt }

/-! ### Data memory -/

/-- `M[k]`: an unlisted word reads as its reset value 0 (R47). -/
def Memory.read : Memory → Nat → Word
  | [], _ => 0
  | (j, w) :: m, k => if j = k then w else Memory.read m k

/-- Put word `k` in the canonical list: a word of 0 leaves no entry. -/
def Memory.insert (k : Nat) (v : Word) : Memory → Memory
  | [] => if v = 0 then [] else [(k, v)]
  | (j, w) :: m =>
    if k < j then (if v = 0 then (j, w) :: m else (k, v) :: (j, w) :: m)
    else if k = j then (if v = 0 then m else (k, v) :: m)
    else (j, w) :: Memory.insert k v m

/-- `M[k] <- v`. -/
def Memory.write (m : Memory) (k : Nat) (v : Word) : Memory := Memory.insert k v m

/-- Indices from `lo` on, strictly rising and below 16, no word 0. -/
def Memory.wfFrom : Nat → Memory → Bool
  | _, [] => true
  | lo, (j, w) :: m =>
    decide (lo ≤ j) && decide (j < Config.dmemWords) && decide (w ≠ 0) && Memory.wfFrom (j + 1) m

/-- The canonical form of the data memory. -/
def Memory.wf (m : Memory) : Bool := Memory.wfFrom 0 m

/-- The word index of an effective address: `ea >> 2` (R74). -/
def wordIndex (ea : Word) : Nat := (ea >>> 2).toNat

/-- The byte at byte address `a` through a byte-addressed port with byte order `o`: the only thing `BYTE_ORDER` could
affect (R8, R73). No instruction reads it. `none` outside addresses 0 to 63 (R79). -/
def Memory.byteAt (o : Config.ByteOrder) (m : Memory) (a : Nat) : Option (BitVec 8) :=
  if a < 4 * Config.dmemWords then
    let lane := match o with
      | .little => a % 4
      | .big => 3 - a % 4
    some ((Memory.read m (a / 4)).extractLsb' (8 * lane) 8)
  else none

/-! ### Leaving a cycle -/

/-- `raise E(info)` (R13): what a sub-step that raises a fault says; the cycle number is added on entry (R282). -/
structure Raise where
  code : FaultCode
  reason : FaultReason
  pc : Word
  value : Int
  deriving DecidableEq, Repr

/-- Why a sub-step does not finish its cycle. -/
inductive Abort where
  /-- The spec's `raise` (R282). -/
  | raise (r : Raise)
  /-- The spec gives the sub-step no effect (`Fault`; log entry 2). -/
  | undefined (f : Fault)
  deriving DecidableEq, Repr

/-- The numeric fault code (decision D34). -/
def FaultCode.number : FaultCode → Nat
  | .decodeError => 1
  | .memoryBounds => 2
  | .branchTarget => 3

/-- The numeric reason code (R280). -/
def FaultReason.number : FaultReason → Nat
  | .none => 0
  | .unknownMnemonic => 1
  | .registerOutOfRange => 2

/-- MemoryBoundsError of the instruction at `ipc` (R281). -/
def boundsError (ipc ea : Word) : Raise :=
  { code := .memoryBounds, reason := .none, pc := ipc, value := Int.ofNat ea.toNat }

/-- BranchTargetError of the branch at `ipc` (R283). -/
def targetError (ipc : Word) (target : Int) : Raise :=
  { code := .branchTarget, reason := .none, pc := ipc, value := target }

/-- What a rejection by the decoder raises for the line at `lookup` (R280). The sentinel is no error of R110: the
decoder has no value for it. -/
def decodeAbort (lookup : Word) : Reject → Abort
  | .sentinel => .undefined .sentinelInDecode
  | .unknownMnemonic c =>
    .raise { code := .decodeError, reason := .unknownMnemonic, pc := lookup, value := Int.ofNat c.toNat }
  | .registerOutOfRange f =>
    .raise { code := .decodeError, reason := .registerOutOfRange, pc := lookup, value := f.toInt }

/-- Enter a fault (R282), from the state at the start of the cycle: nothing of the cycle survives but the cycle count
and the record; `still_active` is 0. -/
def State.takeFault (s0 : State) (r : Raise) : State :=
  { s0 with
    cycle := s0.cycle + 1
    fault := true
    faultInfo := some { code := r.code, reason := r.reason, cycle := s0.cycle + 1, pc := r.pc, value := r.value }
    stillActive := false }

/-! ### The two word accesses -/

/-- `MemRead(ea, 4)` by the instruction at `ipc` (R74). -/
def memRead (ipc ea : Word) (s : State) : Except Abort Word :=
  if wordIndex ea < Config.dmemWords then .ok (Memory.read s.mem (wordIndex ea))
  else .error (.raise (boundsError ipc ea))

/-- `M[k] <- v` in the state. -/
def State.writeWord (s : State) (k : Nat) (v : Word) : State := { s with mem := Memory.write s.mem k v }

/-- `MemWrite(ea, 4, v)` by the instruction at `ipc` (R74). -/
def memWrite (ipc ea v : Word) (s : State) : Except Abort State :=
  if wordIndex ea < Config.dmemWords then .ok (s.writeWord (wordIndex ea) v)
  else .error (.raise (boundsError ipc ea))

/-! ### The program source -/

/-- `Prog(a)` (R80): line `a / 4`, or the sentinel past the last line. An address that is no multiple of 4, which no run
reaches, is rounded down: DESIGN CHOICE, log entry 11, unsafe there alone. -/
def State.progAt (s : State) (a : Word) : Raw := s.prog.getD (a.toNat / Config.ilen) Raw.sentinel

/-- The program with line `n` replaced by `r`; lines it had to add before that are the sentinel. -/
def setLine : List Raw → Nat → Raw → List Raw
  | [], 0, r => [r]
  | [], n + 1, r => Raw.sentinel :: setLine [] n r
  | _ :: p, 0, r => r :: p
  | q :: p, n + 1, r => q :: setLine p n r

/-- The state with line `n` of the program source replaced. -/
def State.withLine (s : State) (n : Nat) (r : Raw) : State := { s with prog := setLine s.prog n r }

/-! ### Writes of the sub-steps -/

/-- `pc <- target` (R13). -/
def State.setPc (s : State) (a : Word) : State := { s with pc := a }

/-- MEM's copy of EM into MW (R144): `valid`, `raw`, `dec`, `pc`, `alu`; the other fields of MW stay. -/
def State.copyToMW (s : State) : State :=
  { s with mw := { s.mw with valid := true, raw := s.em.raw, dec := s.em.dec, pc := s.em.pc, alu := s.em.alu } }

/-- `MW.valid <- 0` (R144). -/
def State.clearMW (s : State) : State := { s with mw := { s.mw with valid := false } }

/-- `MW.mdata <- v` (R242). -/
def State.setMdata (s : State) (v : Word) : State := { s with mw := { s.mw with mdata := v } }

/-- The flush of a taken branch (R264): FD, DE and EM become invalid. -/
def State.flush (s : State) : State :=
  { s with fd := { s.fd with valid := false }, de := { s.de with valid := false }, em := { s.em with valid := false } }

/-- FWD's write of the two slots of DE (R146). -/
def State.setFwd (s : State) (a b : FwdSlot) : State := { s with de := { s.de with fwdA := a, fwdB := b } }

/-- EX's copy of DE into EM with the ALU result (R147); the other fields of EM stay. -/
def State.copyToEM (s : State) (v : Word) : State :=
  { s with em := { s.em with valid := true, raw := s.de.raw, dec := s.de.dec, pc := s.de.pc, alu := v } }

/-- `EM.valid <- 0` (R147). -/
def State.clearEM (s : State) : State := { s with em := { s.em with valid := false } }

/-- ID's copy of FD into DE with the decoded record (R149); the other fields of DE stay. -/
def State.copyToDE (s : State) (d : Decoded) : State :=
  { s with de := { s.de with valid := true, raw := s.fd.raw, dec := d, pc := s.fd.pc } }

/-- `DE.valid <- 0` (R149). -/
def State.clearDE (s : State) : State := { s with de := { s.de with valid := false } }

/-- `insert_bubble()` (R201): only the decoded fields of DE become 0. -/
def State.insertBubble (s : State) : State := { s with de := { s.de with dec := Decoded.zero } }

/-- The address of the next line: `u32(a + 4)` (R35, R153). -/
def nextLine (a : Word) : Word := u32 (Int.ofNat a.toNat + Int.ofNat Config.ilen)

/-- The fetch of a real instruction (R153): FD takes it with the pc it was fetched from, and the pc steps by 4. -/
def State.fetch (s : State) (r : Raw) : State :=
  { s with fd := { s.fd with valid := true, raw := r, pc := s.pc }, pc := nextLine s.pc }

/-- The fetch of the sentinel (R153): `FD.valid <- 0`, the pc unchanged. -/
def State.clearFD (s : State) : State := { s with fd := { s.fd with valid := false } }

/-- The end of a cycle that raises nothing (R140): the cycle counter and the `still_active` result (R160). -/
def State.endCycle (s : State) (fetchedSentinel : Bool) : State :=
  { s with
    cycle := s.cycle + 1
    stillActive := !(fetchedSentinel && !s.de.valid && !s.em.valid && !s.mw.valid) }

end Sys2Proof.Machine
end

