-- ==== Sys2Proof/Machine/Flags.lean ====
section
/-! DEFINITION. The block has no flags, condition codes or predicates (10_state.md R37). The one condition it computes
is a branch's, from the branch's own ALU result (44_branch.md R262). -/

namespace Sys2Proof.Machine

/-- BEQ is taken when the wrapped difference is 0 (R262). -/
def beqTaken (alu : Word) : Bool := decide (alu = 0)

/-- BLT is taken when bit 31 of the wrapped difference is 1 (R262, decision D12). -/
def bltTaken (alu : Word) : Bool := alu.getLsbD 31

/-- The taken condition of the instruction whose opcode and ALU result are given; only BEQ and BLT branch (R262). -/
def branchTaken (op : Op) (alu : Word) : Bool :=
  match op with
  | .beq => beqTaken alu
  | .blt => bltTaken alu
  | .add | .addi | .lw | .sw | .lui => false

/-- The branch target: the branch's own address plus the immediate, an exact integer sum (R263). -/
def branchTarget (pc imm : Word) : Int := Int.ofNat pc.toNat + imm.toInt

/-- A target that can be fetched: in `[0, 2^32)` and a multiple of 4 (R265). -/
def targetOk (t : Int) : Bool := decide (0 ≤ t) && decide (t < 2 ^ 32) && decide (t % 4 = 0)

end Sys2Proof.Machine
end

