-- ==== Sys2Proof/Machine/Operands.lean ====
section
/-! DEFINITION. The operand forms: the forwarding arbiter and the operand read of 41_hazard_unit.md R190 to R192, and the
one addressing mode of 43_loadstore.md R240. -/

namespace Sys2Proof.Machine

/-- `writes_reg(op)`: the opcodes that write a register (R190, R32). -/
def writesReg : Op → Bool
  | .add | .addi | .lui | .lw => true
  | .sw | .beq | .blt => false

/-- The opcodes forwarding rule 2 covers: never LW (R190). -/
def forwardsFromEM : Op → Bool
  | .add | .addi | .lui => true
  | .lw | .sw | .beq | .blt => false

/-- The value the Memory/Writeback latch gives its destination: the loaded word for LW, else the ALU result
(R143, R190). -/
def mwResult (l : Latch) : Word :=
  match l.dec.op with
  | .lw => l.mdata
  | .add | .addi | .sw | .beq | .blt | .lui => l.alu

/-- The condition of forwarding rule 1 (R190). -/
def mwForwards (mw : Latch) (src : RegIx) : Bool :=
  mw.valid && writesReg mw.dec.op && decide (mw.dec.rd ≠ 0) && decide (mw.dec.rd = src)

/-- The condition of forwarding rule 2 (R190). -/
def emForwards (em : Latch) (src : RegIx) : Bool :=
  em.valid && forwardsFromEM em.dec.op && decide (em.dec.rd ≠ 0) && decide (em.dec.rd = src)

/-- `fwd_select(src)` (R190): rule 1, then rule 2, then no forwarding. Register 0 is never forwarded. -/
def fwdSelect (mw em : Latch) (src : RegIx) : FwdSlot :=
  if mwForwards mw src then { sel := .fromMW, val := mwResult mw }
  else if emForwards em src then { sel := .fromEM, val := em.alu }
  else FwdSlot.none

/-- `operand(slot, src)` (R192). -/
def operand (slot : FwdSlot) (src : RegIx) (s : State) : Word :=
  match slot.sel with
  | .regFile => s.readReg src
  | .fromMW | .fromEM => slot.val

/-- The effective address of LW and SW: base plus signed offset modulo 2^32 (R240). -/
def effectiveAddress (base imm : Word) : Word := base + imm

end Sys2Proof.Machine
end

