-- ==== Sys2Proof/Machine/BranchStages.lean ====
section
/-! DEFINITION. What BEQ and BLT do in each stage (44_branch.md R260 to R265): the compare in EX, the redirect and
flush in MEM. -/

namespace Sys2Proof.Machine

/-- A taken branch in MEM, after MW took its copy of EM (R264): the target must be fetchable (R265), then the pc is
redirected and FD, DE and EM are flushed. -/
def redirect (s : State) : Except Abort State :=
  let t := branchTarget s.em.pc s.em.dec.imm
  if targetOk t then .ok ((s.setPc (u32 t)).flush)
  else .error (.raise (targetError s.em.pc t))

/-- BEQ in EX: the wrapped difference (R262). -/
def aluBeq (A B : Word) : Word := A - B

/-- BEQ in MEM (R260). -/
def memBeq (s : State) : Except Abort State := if beqTaken s.em.alu then redirect s else .ok s

/-- BEQ in WB: no register write (R260). -/
def wbBeq (s : State) : State := s

/-- BLT in EX: the wrapped difference (R262). -/
def aluBlt (A B : Word) : Word := A - B

/-- BLT in MEM (R261). -/
def memBlt (s : State) : Except Abort State := if bltTaken s.em.alu then redirect s else .ok s

/-- BLT in WB: no register write (R261). -/
def wbBlt (s : State) : State := s

end Sys2Proof.Machine
end

