-- ==== Sys2Proof/Machine/IntegerStages.lean ====
section
/-! DEFINITION. What ADD, ADDI and LUI do in each stage (42_integer.md R220, R222, R224): one definition per
instruction and stage. `A` and `B` are the operands of EX, read through the forwarding unit (R192). -/

namespace Sys2Proof.Machine

/-- ADD in EX: `u32(A + B)` (R220). -/
def aluAdd (A B : Word) : Word := A + B

/-- ADD in MEM: no memory action (R220). -/
def memAdd (s : State) : Except Abort State := .ok s

/-- ADD in WB: `x[rd] <- MW.alu` (R220). -/
def wbAdd (s : State) : State := s.writeReg s.mw.dec.rd s.mw.alu

/-- ADDI in EX: `u32(A + u32(imm))` (R222). -/
def aluAddi (A imm : Word) : Word := A + imm

/-- ADDI in MEM: no memory action (R222). -/
def memAddi (s : State) : Except Abort State := .ok s

/-- ADDI in WB: `x[rd] <- MW.alu` (R222). -/
def wbAddi (s : State) : State := s.writeReg s.mw.dec.rd s.mw.alu

/-- LUI in EX: the immediate shifted left by 12, high bits discarded (R224). -/
def aluLui (imm : Word) : Word := imm <<< Config.luiShift

/-- LUI in MEM: no memory action (R224). -/
def memLui (s : State) : Except Abort State := .ok s

/-- LUI in WB: `x[rd] <- MW.alu` (R224). -/
def wbLui (s : State) : State := s.writeReg s.mw.dec.rd s.mw.alu

end Sys2Proof.Machine
end

