-- ==== Sys2Proof/Machine/LoadStoreStages.lean ====
section
/-! DEFINITION. What LW and SW do in each stage (43_loadstore.md R240 to R245). -/

namespace Sys2Proof.Machine

/-- LW in EX: the effective address (R240). -/
def aluLw (A imm : Word) : Word := effectiveAddress A imm

/-- LW in MEM: `MW.mdata <- MemRead(EM.alu, 4)` (R242). -/
def memLw (s : State) : Except Abort State :=
  match memRead s.em.pc s.em.alu s with
  | .error e => .error e
  | .ok v => .ok (s.setMdata v)

/-- LW in WB: `x[rd] <- MW.mdata` (R241). -/
def wbLw (s : State) : State := s.writeReg s.mw.dec.rd s.mw.mdata

/-- SW in EX: the effective address (R240). -/
def aluSw (A imm : Word) : Word := effectiveAddress A imm

/-- SW in MEM: `MemWrite(EM.alu, 4, x[EM.dec.rs2])`, the register read here, after this cycle's WB, not through the
forwarded operand (R245). -/
def memSw (s : State) : Except Abort State := memWrite s.em.pc s.em.alu (s.readReg s.em.dec.rs2) s

/-- SW in WB: no register write (R244). -/
def wbSw (s : State) : State := s

end Sys2Proof.Machine
end

