-- ==== Sys2Proof/Machine/Pipeline.lean ====
section
/-! DEFINITION. One cycle of the block (40_pipeline.md): the six sub-steps WB, MEM, FWD, EX, ID, STALL_IF in that order
on one working state (R141), the load-use stall (41_hazard_unit.md R200, R201), and `advance` (R140). The raw instruction
the program source answers in this cycle is an argument, as it is an input of the block (`prog_rdata`, R10): the peek
and the fetch read it at one address (R11), `fetchAddr` below. -/

namespace Sys2Proof.Machine

/-- WB's work on the instruction in MW, by opcode (R143). -/
def wbAction (s : State) : State :=
  match s.mw.dec.op with
  | .add => wbAdd s
  | .addi => wbAddi s
  | .lw => wbLw s
  | .sw => wbSw s
  | .beq => wbBeq s
  | .blt => wbBlt s
  | .lui => wbLui s

/-- WB (R143). -/
def writeback (s : State) : State := if s.mw.valid then wbAction s else s

/-- `MEMOP(EM)`: MEM's work on the instruction in EM, by opcode (R144). -/
def memAction (s : State) : Except Abort State :=
  match s.em.dec.op with
  | .add => memAdd s
  | .addi => memAddi s
  | .lw => memLw s
  | .sw => memSw s
  | .beq => memBeq s
  | .blt => memBlt s
  | .lui => memLui s

/-- MEM (R144): EM moves into MW, then the opcode's memory action. `EM.valid` is cleared by a flush only. -/
def memory (s : State) : Except Abort State := if s.em.valid then memAction s.copyToMW else .ok s.clearMW

/-- FWD (R146): fills the two slots of DE, whether or not DE is valid. -/
def forward (s : State) : State := s.setFwd (fwdSelect s.mw s.em s.de.dec.rs1) (fwdSelect s.mw s.em s.de.dec.rs2)

/-- `ALU(op, A, B, imm)` (R147): total, never raises. -/
def alu (op : Op) (A B imm : Word) : Word :=
  match op with
  | .add => aluAdd A B
  | .addi => aluAddi A imm
  | .lw => aluLw A imm
  | .sw => aluSw A imm
  | .beq => aluBeq A B
  | .blt => aluBlt A B
  | .lui => aluLui imm

/-- The ALU result of the instruction in DE, its operands read through the slots (R147, R148). -/
def executeResult (s : State) : Word :=
  alu s.de.dec.op (operand s.de.fwdA s.de.dec.rs1 s) (operand s.de.fwdB s.de.dec.rs2 s) s.de.dec.imm

/-- EX (R147): DE moves into EM with its ALU result. -/
def execute (s : State) : State := if s.de.valid then s.copyToEM (executeResult s) else s.clearEM

/-- ID (R149): FD moves into DE, decoded. -/
def decodeStage (s : State) : Except Abort State :=
  if s.fd.valid then
    match decodeRecord s.fd.raw with
    | .ok d => .ok (s.copyToDE d)
    | .error e => .error (decodeAbort s.fd.pc e)
  else .ok s.clearDE

/-- The peek (R200): the decoded instruction at the pc, `none` for the sentinel; it may raise DecodeError. -/
def peek (port : Raw) (s : State) : Except Abort (Option Decoded) :=
  match decodeRecord port with
  | .ok d => .ok (some d)
  | .error .sentinel => .ok none
  | .error e => .error (decodeAbort s.pc e)

/-- The load-use condition on DE and the peeked instruction (R200). There is no `rd != 0` test, and the zeros of
unpopulated fields count (R203). -/
def loadUse (de : Latch) (nd : Option Decoded) : Bool :=
  match nd with
  | none => false
  | some d => de.valid && decide (de.dec.op = .lw) && (decide (de.dec.rd = d.rs1) || decide (de.dec.rd = d.rs2))

/-- STALL_IF (R153): stall, or fetch. The Boolean is `fetched_sentinel`. -/
def stallOrFetch (port : Raw) (s : State) : Except Abort (State × Bool) :=
  match peek port s with
  | .error e => .error e
  | .ok nd =>
    if loadUse s.de nd then .ok (s.insertBubble, false)
    else
      match nd with
      | none => .ok (s.clearFD, true)
      | some _ => .ok (s.fetch port, false)

/-- The state as STALL_IF finds it: WB, MEM, FWD, EX and ID done (R141). -/
def beforeFetch (s : State) : Except Abort State :=
  match memory (writeback s) with
  | .error e => .error e
  | .ok s1 => decodeStage (execute (forward s1))

/-- The six sub-steps in order (R141). -/
def subSteps (port : Raw) (s : State) : Except Abort (State × Bool) :=
  match beforeFetch s with
  | .error e => .error e
  | .ok s1 => stallOrFetch port s1

/-- `advance` (R140): one cycle, with `port` the raw instruction the program source answers. A halted block does nothing
(R162, R284); a raised fault undoes the cycle and is recorded (R282). -/
def advance (port : Raw) (s : State) : Host.Outcome State Fault Refusal :=
  if s.fault then .next s
  else
    match subSteps port s with
    | .ok (s1, sentinel) => .next (s1.endCycle sentinel)
    | .error (.raise r) => .next (s.takeFault r)
    | .error (.undefined f) => .fault f

/-- The address this cycle's peek and fetch read: the pc after the Memory sub-step (R11). In a cycle whose Memory
sub-step raises, the program source is not read. -/
def fetchAddr (s : State) : Word :=
  match memory (writeback s) with
  | .ok s1 => s1.pc
  | .error _ => s.pc

/-- The raw instruction the program source answers in this cycle (R10, R80). -/
def fetchRaw (s : State) : Raw := s.progAt (fetchAddr s)

/-- This cycle, with `port` on the program port, ends in a load-use stall (R200). -/
def stallsOn (port : Raw) (s : State) : Bool :=
  match beforeFetch s with
  | .error _ => false
  | .ok s1 =>
    match peek port s1 with
    | .error _ => false
    | .ok nd => loadUse s1.de nd

/-- The instruction in EM takes a branch in this cycle's Memory sub-step (R264). -/
def takesBranch (s : State) : Bool := s.em.valid && branchTaken s.em.dec.op s.em.alu

end Sys2Proof.Machine
end

