-- ==== Sys2Proof/Machine/Branch.lean ====
section
/-! DEFINITION. The meanings of BEQ and BLT: the cycle in which the instruction stands on the program port (see
Machine/Integer.lean). The branch resolves when it reaches MEM, three cycles later (44_branch.md R264). -/

namespace Sys2Proof.Machine

/-- BEQ `rs1 rs2 imm` (R260). -/
def execBeq (rs1 rs2 imm : Field) (s : State) : Host.Outcome State Fault Refusal :=
  advance (encode (.beq rs1 rs2 imm)) s

/-- BLT `rs1 rs2 imm` (R261). -/
def execBlt (rs1 rs2 imm : Field) (s : State) : Host.Outcome State Fault Refusal :=
  advance (encode (.blt rs1 rs2 imm)) s

end Sys2Proof.Machine
end

