-- ==== Sys2Proof/Machine/Integer.lean ====
section
/-! DEFINITION. The meanings of ADD, ADDI and LUI. The meaning of an instruction is the cycle in which it stands on the
program port: the load-use peek reads it, and it is fetched or held back (40_pipeline.md R140, R153). From FD on, the
latches carry it, and its stage actions (`aluAdd`, `memAdd`, `wbAdd`, …) run in the cycles of 40_pipeline.md R165. DESIGN
CHOICE, log entry 1: safe. -/

namespace Sys2Proof.Machine

/-- ADD `rd rs1 rs2` (R220). A register field outside 0 to 31 raises DecodeError at the peek (R280). -/
def execAdd (rd rs1 rs2 : Field) (s : State) : Host.Outcome State Fault Refusal :=
  advance (encode (.add rd rs1 rs2)) s

/-- ADDI `rd rs1 imm` (R222). -/
def execAddi (rd rs1 imm : Field) (s : State) : Host.Outcome State Fault Refusal :=
  advance (encode (.addi rd rs1 imm)) s

/-- LUI `rd imm` (R224); the third field is latched and never used (R113). -/
def execLui (rd imm unused : Field) (s : State) : Host.Outcome State Fault Refusal :=
  advance (encode (.lui rd imm unused)) s

end Sys2Proof.Machine
end

