-- ==== Sys2Proof/Machine/LoadStore.lean ====
section
/-! DEFINITION. The meanings of LW and SW: the cycle in which the instruction stands on the program port (see
Machine/Integer.lean). A LW may set off the load-use stall of its successor (41_hazard_unit.md R200), and both may raise
MemoryBoundsError when they reach MEM (60_exceptions.md R281). -/

namespace Sys2Proof.Machine

/-- LW `rd imm rs1` (R241). -/
def execLw (rd imm rs1 : Field) (s : State) : Host.Outcome State Fault Refusal :=
  advance (encode (.lw rd imm rs1)) s

/-- SW `rs2 imm rs1` (R244). -/
def execSw (rs2 imm rs1 : Field) (s : State) : Host.Outcome State Fault Refusal :=
  advance (encode (.sw rs2 imm rs1)) s

end Sys2Proof.Machine
end

