-- ==== Sys2Proof/Machine/Step.lean ====
section
/-! DEFINITION. One step: one `advance` of the block (40_pipeline.md R140) on what the program source answers. A line
that decodes is run by `exec`; the sentinel and a line that does not decode are given to `advance` as they are, which
fetches nothing (R153) or raises DecodeError at the peek (60_exceptions.md R280). -/

namespace Sys2Proof.Machine

def step (s : State) : Host.Outcome State Fault Refusal :=
  match decode (fetchRaw s) with
  | .ok i => exec i s
  | .error _ => advance (fetchRaw s) s

/-- `s` with a table word stored on the program line its next step peeks at and fetches. -/
def State.withFetchWord (s : State) (nbits w : Nat) : State :=
  s.withLine ((fetchAddr s).toNat / Config.ilen) (tableRaw nbits w)

end Sys2Proof.Machine
end

