-- ==== Sys2Proof/Machine/HostPort.lean ====
section
/-! DEFINITION. What the outside world does to the block, between cycles: the program line format at the block's edge
(30_encoding.md R101), boot and reset (70_reset_and_hazards.md R320, R325), the test preload (R326), the observation
interface (60_exceptions.md R300) and the external cycle driver (40_pipeline.md R163). -/

namespace Sys2Proof.Machine

/-- An operand that fits 32-bit two's complement (decision D5). -/
def operandFits (n : Int) : Bool := decide (-(2 ^ 31) ≤ n) && decide (n < 2 ^ 31)

/-- The raw instruction of one program line whose mnemonic the external mapper has turned into a token code: up to three
signed operands, an absent one reading 0 (R101, R115, decision D2). -/
def Raw.ofLine (tok : BitVec 4) (fields : List Int) : Except Refusal Raw :=
  if fields.length > 3 then .error .tooManyOperands
  else if fields.all operandFits then
    .ok { tok := tok, f0 := u32 (fields.getD 0 0), f1 := u32 (fields.getD 1 0), f2 := u32 (fields.getD 2 0) }
  else .error .operandTooWide

/-- The `reset` input (R320): every piece of state to its reset value, at any time between cycles; the program source
is not touched. -/
def State.applyReset (s : State) : State := { State.reset with prog := s.prog }

/-- Boot (R325): select the program source, then reset. `none` is an unreadable source (R286). -/
def State.boot (source : Option (List Raw)) : Host.Outcome State Fault Refusal :=
  match source with
  | none => .refused .programUnreadable
  | some p => if p.length < Config.progLimit then .next { State.reset with prog := p } else .refused .programTooLong

/-- The test preload of registers (R326). -/
def State.preloadReg (s : State) (r : RegIx) (v : Word) : State := s.writeReg r v

/-- The test preload of a data-memory word (R326); there are 16 words (R70). -/
def State.preloadWord (s : State) (k : Fin 16) (v : Word) : State := s.writeWord k.val v

/-- What the host reads after each `advance` (R300), the per-stage reports as decision D31 maps them. -/
structure Observation where
  regs : Vector Word 32
  dmem : List Word
  pc : Word
  cycle : Nat
  fault : Bool
  faultInfo : Option FaultInfo
  stageIF : Option Decoded
  stageID : Option Decoded
  stageEX : Option Decoded
  stageMEM : Option Decoded
  stageWB : Option Decoded
  deriving DecidableEq, Repr

/-- The decoded instruction in a latch, or none when it is invalid (R300). -/
def Latch.report (l : Latch) : Option Decoded := if l.valid then some l.dec else none

/-- The IF report: `decode(FD.raw)` (R300, R301). -/
def Latch.reportIF (l : Latch) : Option Decoded := if l.valid then (decodeRecord l.raw).toOption else none

/-- All 16 words of the data memory, word 0 first. -/
def Memory.words (m : Memory) : List Word := (List.range Config.dmemWords).map (Memory.read m)

/-- The observation after a cycle (R300): `previous` is the state after the cycle before, whose MEM entry is this
cycle's WB entry; `none` right after reset. -/
def State.observe (previous : Option State) (s : State) : Observation :=
  { regs := s.regs
    dmem := Memory.words s.mem
    pc := s.pc
    cycle := s.cycle
    fault := s.fault
    faultInfo := s.faultInfo
    stageIF := Latch.reportIF s.fd
    stageID := Latch.report s.de
    stageEX := Latch.report s.em
    stageMEM := Latch.report s.mw
    stageWB := match previous with
      | none => none
      | some p => Latch.report p.mw }

/-- The external cycle driver (R163): call `advance` until it returns 0 or `maxCycles` calls have been made. The state
it answers tells a terminated run (`stillActive = false`) from one that reached the cap (R333). -/
def drive : Nat → State → Host.Outcome State Fault Refusal
  | 0, s => .next s
  | n + 1, s =>
    match step s with
    | .next t => if t.stillActive then drive n t else .next t
    | .fault f => .fault f
    | .refused r => .refused r

end Sys2Proof.Machine
end

