-- ==== Sys2Proof/Machine/NextState.lean ====
section
/-! DEFINITION. What the block shows of a state once the don't-care fields of invalid latches are left out (10_state.md
R42), and the start-of-cycle next-state form of 40_pipeline.md R164, written from that rule's text and independent of
the six sub-steps: it reads only the state at the start of the cycle. -/

namespace Sys2Proof.Machine

/-- What FD holds when valid: the fields R41 lists as read later. -/
structure FdView where
  raw : Raw
  pc : Word
  deriving DecidableEq, Repr

/-- What DE holds when valid. The forwarded-operand slots are written before they are read in every cycle (R146). -/
structure DeView where
  raw : Raw
  dec : Decoded
  pc : Word
  deriving DecidableEq, Repr

/-- What EM holds when valid. -/
structure EmView where
  raw : Raw
  dec : Decoded
  pc : Word
  alu : Word
  deriving DecidableEq, Repr

/-- What MW holds when valid; `mdata` only for LW (R41, R144). -/
structure MwView where
  raw : Raw
  dec : Decoded
  pc : Word
  alu : Word
  mdata : Option Word
  deriving DecidableEq, Repr

/-- A state without its don't-care fields. -/
structure View where
  regs : Vector Word 32
  mem : Memory
  pc : Word
  fd : Option FdView
  de : Option DeView
  em : Option EmView
  mw : Option MwView
  stillActive : Bool
  deriving DecidableEq, Repr

def Latch.fdView (l : Latch) : Option FdView := if l.valid then some { raw := l.raw, pc := l.pc } else none

def Latch.deView (l : Latch) : Option DeView :=
  if l.valid then some { raw := l.raw, dec := l.dec, pc := l.pc } else none

def Latch.emView (l : Latch) : Option EmView :=
  if l.valid then some { raw := l.raw, dec := l.dec, pc := l.pc, alu := l.alu } else none

def Latch.mwView (l : Latch) : Option MwView :=
  if l.valid then
    some { raw := l.raw, dec := l.dec, pc := l.pc, alu := l.alu,
           mdata := if l.dec.op = .lw then some l.mdata else none }
  else none

/-- The view of a state (R42). -/
def State.view (s : State) : View :=
  { regs := s.regs, mem := s.mem, pc := s.pc, fd := Latch.fdView s.fd, de := Latch.deView s.de,
    em := Latch.emView s.em, mw := Latch.mwView s.mw, stillActive := s.stillActive }

/-! ### The next-state form of R164 -/

/-- `x1`: the register file with the WB write of MW. -/
def nsX1 (s : State) : Vector Word 32 :=
  if s.mw.valid && writesReg s.mw.dec.op then s.regs.set s.mw.dec.rd.toNat (mwResult s.mw) s.mw.dec.rd.isLt
  else s.regs

/-- `tk`: the instruction in EM is a taken branch. -/
def nsTaken (s : State) : Bool :=
  s.em.valid && ((decide (s.em.dec.op = .beq) && decide (s.em.alu = 0)) ||
    (decide (s.em.dec.op = .blt) && s.em.alu.getLsbD 31))

/-- `lv`: the word the LW in EM loads. -/
def nsLoaded (s : State) : Word := Memory.read s.mem (wordIndex s.em.alu)

/-- The Memory fault of the cycle, bounds check before branch target (R164, last paragraph). -/
def nsMemFault (s : State) : Option Raise :=
  if s.em.valid && (decide (s.em.dec.op = .lw) || decide (s.em.dec.op = .sw)) &&
      decide (Config.dmemWords ≤ wordIndex s.em.alu) then some (boundsError s.em.pc s.em.alu)
  else if nsTaken s && !targetOk (branchTarget s.em.pc s.em.dec.imm) then
    some (targetError s.em.pc (branchTarget s.em.pc s.em.dec.imm))
  else none

/-- `M'`. -/
def nsMem (s : State) : Memory :=
  if s.em.valid && decide (s.em.dec.op = .sw) then
    Memory.write s.mem (wordIndex s.em.alu) ((nsX1 s)[s.em.dec.rs2.toNat]'s.em.dec.rs2.isLt)
  else s.mem

/-- `MW'`. -/
def nsMW (s : State) : Option MwView :=
  if s.em.valid then
    some { raw := s.em.raw, dec := s.em.dec, pc := s.em.pc, alu := s.em.alu,
           mdata := if s.em.dec.op = .lw then some (nsLoaded s) else none }
  else none

/-- `opnd(r)`: EM's own result where EM writes `r ≠ 0`, else `x1[r]`. -/
def nsOperand (s : State) (r : RegIx) : Word :=
  if s.em.valid && writesReg s.em.dec.op && decide (s.em.dec.rd ≠ 0) && decide (s.em.dec.rd = r) then
    (if s.em.dec.op = .lw then nsLoaded s else s.em.alu)
  else (nsX1 s)[r.toNat]'r.isLt

/-- `EM'`. -/
def nsEM (s : State) : Option EmView :=
  if s.de.valid && !nsTaken s then
    some { raw := s.de.raw, dec := s.de.dec, pc := s.de.pc,
           alu := alu s.de.dec.op (nsOperand s s.de.dec.rs1) (nsOperand s s.de.dec.rs2) s.de.dec.imm }
  else none

/-- `D1`, for an FD whose raw instruction decodes (R150). -/
def nsD1 (s : State) : Option DeView :=
  if s.fd.valid && !nsTaken s then
    match decodeRecord s.fd.raw with
    | .ok d => some { raw := s.fd.raw, dec := d, pc := s.fd.pc }
    | .error _ => none
  else none

/-- `pc1`. -/
def nsPc1 (s : State) : Word := if nsTaken s then u32 (branchTarget s.em.pc s.em.dec.imm) else s.pc

/-- `st`. -/
def nsStall (s : State) (nd : Option Decoded) : Bool :=
  match nsD1 s, nd with
  | some d1, some d => decide (d1.dec.op = .lw) && (decide (d1.dec.rd = d.rs1) || decide (d1.dec.rd = d.rs2))
  | _, _ => false

/-- The cycle given what the program source answers at `pc1`, already decoded (`nd`). -/
def nsView (s : State) (port : Raw) (nd : Option Decoded) : View :=
  let st := nsStall s nd
  let de' := if st then (nsD1 s).map (fun d => { d with dec := Decoded.zero }) else nsD1 s
  { regs := nsX1 s
    mem := nsMem s
    pc := if st || nd.isNone then nsPc1 s else nextLine (nsPc1 s)
    fd := if st then Latch.fdView s.fd else nd.map (fun _ => { raw := port, pc := nsPc1 s })
    de := de'
    em := nsEM s
    mw := nsMW s
    stillActive := !(!st && nd.isNone && de'.isNone && (nsEM s).isNone && (nsMW s).isNone) }

/-- The whole next-state form: the fault of the cycle, or the view of the next state. -/
def nextForm (s : State) : Except Raise View :=
  match nsMemFault s with
  | some r => .error r
  | none =>
    match decodeRecord (s.progAt (nsPc1 s)) with
    | .ok d => .ok (nsView s (s.progAt (nsPc1 s)) (some d))
    | .error .sentinel => .ok (nsView s (s.progAt (nsPc1 s)) none)
    | .error (.unknownMnemonic c) =>
      .error { code := .decodeError, reason := .unknownMnemonic, pc := nsPc1 s, value := Int.ofNat c.toNat }
    | .error (.registerOutOfRange f) =>
      .error { code := .decodeError, reason := .registerOutOfRange, pc := nsPc1 s, value := f.toInt }

end Sys2Proof.Machine
end

