-- ==== Sys2Proof/Machine/Sequential.lean ====
section
/-! DEFINITION. Sequential, one-at-a-time execution (41_hazard_unit.md R195): a machine with the registers, the data memory
and a pc alone, which runs one whole instruction a step under the rules of 42_integer.md, 43_loadstore.md and
44_branch.md, and stops at the sentinel. It is not the block: it is what the block's results are compared with. -/

namespace Sys2Proof.Machine

/-- The state of sequential execution. -/
structure SeqState where
  regs : Vector Word 32
  mem : Memory
  pc : Word
  deriving DecidableEq, Repr

def SeqState.reg (q : SeqState) (r : RegIx) : Word := q.regs[r.toNat]'r.isLt

/-- The address of the next line. -/
def SeqState.nextPc (q : SeqState) : Word := nextLine q.pc

/-- Write a register and go on to the next line. -/
def SeqState.retire (q : SeqState) (rd : RegIx) (v : Word) : SeqState :=
  { q with regs := q.regs.set rd.toNat v rd.isLt, pc := q.nextPc }

/-- A branch: to its target when taken (R263 to R265), to the next line otherwise. -/
def SeqState.branch (q : SeqState) (taken : Bool) (imm : Word) : Option SeqState :=
  if taken then
    (if targetOk (branchTarget q.pc imm) then some { q with pc := u32 (branchTarget q.pc imm) } else none)
  else some { q with pc := q.nextPc }

/-- One whole instruction (R220, R222, R224, R241, R244, R260, R261); `none` where it faults. -/
def SeqState.exec (q : SeqState) (d : Decoded) : Option SeqState :=
  match d.op with
  | .add => some (q.retire d.rd (q.reg d.rs1 + q.reg d.rs2))
  | .addi => some (q.retire d.rd (q.reg d.rs1 + d.imm))
  | .lui => some (q.retire d.rd (d.imm <<< Config.luiShift))
  | .lw =>
    if wordIndex (q.reg d.rs1 + d.imm) < Config.dmemWords then
      some (q.retire d.rd (Memory.read q.mem (wordIndex (q.reg d.rs1 + d.imm))))
    else none
  | .sw =>
    if wordIndex (q.reg d.rs1 + d.imm) < Config.dmemWords then
      some { q with mem := Memory.write q.mem (wordIndex (q.reg d.rs1 + d.imm)) (q.reg d.rs2), pc := q.nextPc }
    else none
  | .beq => q.branch (beqTaken (q.reg d.rs1 - q.reg d.rs2)) d.imm
  | .blt => q.branch (bltTaken (q.reg d.rs1 - q.reg d.rs2)) d.imm

/-- The line sequential execution is at. -/
def SeqState.line (q : SeqState) (prog : List Raw) : Raw := prog.getD (q.pc.toNat / Config.ilen) Raw.sentinel

/-- One step of sequential execution; `none` at a sentinel, at a line that does not decode, and where it faults. -/
def SeqState.step (prog : List Raw) (q : SeqState) : Option SeqState :=
  match decodeRecord (q.line prog) with
  | .ok d => q.exec d
  | .error _ => none

/-- `m` whole instructions. -/
def SeqState.run (prog : List Raw) : Nat → SeqState → Option SeqState
  | 0, q => some q
  | m + 1, q =>
    match q.step prog with
    | some q1 => SeqState.run prog m q1
    | none => none

end Sys2Proof.Machine
end

