-- ==== Sys2Proof/Safety.lean ====
section
/-! DEFINITION. The words the statements use: runs of the block, a drained block, the cycles that stall or branch, and
the invariant of the reachable states. -/

namespace Sys2Proof.Machine

/-- `n` cycles of the block. -/
abbrev runs (n : Nat) (s : State) : Host.Outcome State Fault Refusal := Host.Core.run Sys2Proof.core n s

/-- One cycle from `s` to `t`: a step of the block, or the cycle with an instruction of any kind on its program port. -/
abbrev CycleTo (s t : State) : Prop := step s = .next t ∨ ∃ i, exec i s = .next t

/-- A cycle that raises nothing, of a block that is not halted. -/
abbrev QuietCycle (s t : State) : Prop := CycleTo s t ∧ s.fault = false ∧ t.fault = false

/-- No instruction is in flight and no fault is recorded. -/
abbrev Drained (s : State) : Prop :=
  s.fault = false ∧ s.fd.valid = false ∧ s.de.valid = false ∧ s.em.valid = false ∧ s.mw.valid = false

/-- The program source answers the sentinel at `a` (R80). -/
abbrev SentinelAt (s : State) (a : Word) : Prop := Token.ofCode (s.progAt a).tok = .nop

/-- At least one latch holds a live instruction (R168). -/
def anyValid (s : State) : Bool := s.fd.valid || s.de.valid || s.em.valid || s.mw.valid

/-- This cycle is a load-use stall (R200, R153). -/
def stalls (s : State) : Bool := !s.fault && stallsOn (fetchRaw s) s

/-- The raw instruction decodes (R110). -/
def decodes (r : Raw) : Bool :=
  match decodeRecord r with
  | .ok _ => true
  | .error _ => false

/-- A latch's decoded record is what its raw instruction decodes to, or the bubble (R149, R201). -/
def decOfRaw (l : Latch) : Bool := decide ((decodeRecord l.raw).toOption = some l.dec) || decide (l.dec = Decoded.zero)

/-- The peeked instruction after a LW in DE names its `rd` in neither source field (R205). -/
def fillerOk (lw : Decoded) (next : Raw) : Bool :=
  match decodeRecord next with
  | .ok d => decide (d.rs1 ≠ lw.rd) && decide (d.rs2 ≠ lw.rd)
  | .error _ => true

/-- An address that the program source is asked at is a multiple of 4 (R36, R80). -/
abbrev aligned (a : Word) : Prop := a.toNat % 4 = 0

/-- The pc and the address of every live instruction are multiples of 4 (R36). -/
abbrev AddressesAligned (s : State) : Prop :=
  aligned s.pc ∧ (s.fd.valid = true → aligned s.fd.pc) ∧ (s.de.valid = true → aligned s.de.pc) ∧
    (s.em.valid = true → aligned s.em.pc) ∧ (s.mw.valid = true → aligned s.mw.pc)

/-- FD, DE, EM and MW hold what the decoder gives, or the bubble (R150, R201). -/
abbrev LatchesDecoded (s : State) : Prop :=
  (s.fd.valid = true → decodes s.fd.raw = true) ∧ (s.de.valid = true → decOfRaw s.de = true) ∧
    (s.em.valid = true → decOfRaw s.em = true) ∧ (s.mw.valid = true → decOfRaw s.mw = true)

/-- No instruction stands right behind a LW it depends on (R200, R205): in FD behind DE, in DE behind EM. -/
abbrev LoadsSpaced (s : State) : Prop :=
  (s.de.valid = true → s.de.dec.op = .lw → s.fd.valid = true → fillerOk s.de.dec s.fd.raw = true) ∧
    (s.em.valid = true → s.em.dec.op = .lw → s.de.valid = true →
      s.de.dec.rs1 ≠ s.em.dec.rd ∧ s.de.dec.rs2 ≠ s.em.dec.rd)

/-- The fault flag and its record agree, and a halted block reports itself inactive (R45, R282, R284). -/
abbrev FaultRecordOk (s : State) : Prop :=
  s.fault = s.faultInfo.isSome ∧ (s.fault = true → s.stillActive = false)

/-- After a cycle that raised nothing, `still_active` says whether a latch is valid (R168). -/
abbrev ActiveOk (s : State) : Prop :=
  s.fault = false → (anyValid s = true → s.stillActive = true) ∧
    (s.stillActive = true → anyValid s = true ∨ s.cycle = 0)

/-- What holds of every state a run from reset reaches, whatever program it runs. -/
abbrev Inv (s : State) : Prop :=
  Memory.wf s.mem = true ∧ AddressesAligned s ∧ LatchesDecoded s ∧ LoadsSpaced s ∧ FaultRecordOk s ∧ ActiveOk s

/-- The fault record a cycle of `s` leaves: nothing else of the cycle survives (R282). -/
abbrev RecordsFault (s t : State) (code : FaultCode) (reason : FaultReason) (pc : Word) (value : Int) : Prop :=
  t = { s with
        cycle := s.cycle + 1
        fault := true
        faultInfo := some { code := code, reason := reason, cycle := s.cycle + 1, pc := pc, value := value }
        stillActive := false }

/-- Two states that differ at most in the fields of invalid latches and other never-read fields (R42). -/
abbrev SameButDontCare (s t : State) : Prop :=
  s.view = t.view ∧ s.fault = t.fault ∧ s.faultInfo = t.faultInfo ∧ s.cycle = t.cycle ∧ s.prog = t.prog

end Sys2Proof.Machine
end

