-- ==== Sys2Proof/Certificates/Slice0/Obligations.lean ====
section
/-! DEFINITION. The statements about the block, one definition each. A statement about a whole instruction follows it from
the cycle that fetches it (`exec`) to the cycle that retires it; a statement about a cycle holds for `step` and for
`exec` of any instruction unless it says which. -/

open Sys2Proof Sys2Proof.Machine

/-! ### Encoding -/

/-- Decoding the encoding of a well-formed instruction gives it back, as a record (R105, R110) and through the packed
100-bit word (R102). -/
def Obligations.DecodeEncodeRoundTrip : Prop :=
  ∀ i : Instr, WellFormed i = true →
    decode (encode i) = .ok i ∧ Raw.unpack (encodeWord i) = encode i ∧ decode (Raw.unpack (encodeWord i)) = .ok i

/-- R117: re-encoding a decoded record recovers the raw instruction; only LUI has an unused position, which is
recovered as 0. -/
def Obligations.ReencodeRecoversRawFields : Prop :=
  ∀ (r : Raw) (d : Decoded), decodeRecord r = .ok d →
    ((Token.ofCode r.tok = .lui → r.f2 = 0) → d.encode = r) ∧
    (Token.ofCode r.tok = .lui → d.encode = { r with f2 := 0 })

/-- R105 and R106: where each field of the decoded record comes from, and that an unpopulated one is 0. -/
def Obligations.DecodeFollowsFieldContract : Prop :=
  ∀ (r : Raw) (d : Decoded), decodeRecord r = .ok d →
    match Token.ofCode r.tok with
    | .add => d.op = .add ∧ d.rd.setWidth 32 = r.f0 ∧ d.rs1.setWidth 32 = r.f1 ∧ d.rs2.setWidth 32 = r.f2 ∧ d.imm = 0
    | .addi => d.op = .addi ∧ d.rd.setWidth 32 = r.f0 ∧ d.rs1.setWidth 32 = r.f1 ∧ d.rs2 = 0 ∧ d.imm = r.f2
    | .lw => d.op = .lw ∧ d.rd.setWidth 32 = r.f0 ∧ d.imm = r.f1 ∧ d.rs1.setWidth 32 = r.f2 ∧ d.rs2 = 0
    | .sw => d.op = .sw ∧ d.rs2.setWidth 32 = r.f0 ∧ d.imm = r.f1 ∧ d.rs1.setWidth 32 = r.f2 ∧ d.rd = 0
    | .beq => d.op = .beq ∧ d.rs1.setWidth 32 = r.f0 ∧ d.rs2.setWidth 32 = r.f1 ∧ d.imm = r.f2 ∧ d.rd = 0
    | .blt => d.op = .blt ∧ d.rs1.setWidth 32 = r.f0 ∧ d.rs2.setWidth 32 = r.f1 ∧ d.imm = r.f2 ∧ d.rd = 0
    | .lui => d.op = .lui ∧ d.rd.setWidth 32 = r.f0 ∧ d.imm = r.f1 ∧ d.rs1 = 0 ∧ d.rs2 = 0
    | .nop => False
    | .unknown => False

/-- R110, R112, R285: the decoder rejects the sentinel, an unknown token, and the first register-role field in field
order that is outside 0 to 31, and nothing else. -/
def Obligations.DecodeRejectsExactlyTheIllegal : Prop :=
  ∀ r : Raw,
    let regs : List Field := match Token.ofCode r.tok with
      | .add => [r.f0, r.f1, r.f2]
      | .addi => [r.f0, r.f1]
      | .lw => [r.f0, r.f2]
      | .sw => [r.f0, r.f2]
      | .beq => [r.f0, r.f1]
      | .blt => [r.f0, r.f1]
      | .lui => [r.f0]
      | .nop => []
      | .unknown => []
    (decodeRecord r = .error .sentinel ↔ r.tok = 7) ∧
    (∀ c, decodeRecord r = .error (.unknownMnemonic c) ↔ 8 ≤ r.tok.toNat ∧ c = r.tok) ∧
    (∀ f, decodeRecord r = .error (.registerOutOfRange f) ↔
      ∃ before after, regs = before ++ f :: after ∧ (f.toInt < 0 ∨ 31 < f.toInt) ∧
        ∀ g ∈ before, 0 ≤ g.toInt ∧ g.toInt ≤ 31) ∧
    ((∃ d, decodeRecord r = .ok d) ↔ r.tok.toNat < 7 ∧ ∀ g ∈ regs, 0 ≤ g.toInt ∧ g.toInt ≤ 31)

/-- The packed words of 95_test_vectors.md section 1.2 decode to the lines they stand for. -/
def Obligations.SpecPackedWordsDecode : Prop :=
  decodeTableWord 104 0x0000000030000000100000002 = some (.add 3 1 2) ∧
  decodeTableWord 104 0x10000000200000001FFFFFFF6 = some (.addi 2 1 (-10)) ∧
  decodeTableWord 104 0x2000000030000000800000002 = some (.lw 3 8 2) ∧
  decodeTableWord 104 0x300000001FFFFFFFC00000002 = some (.sw 1 (-4) 2) ∧
  decodeTableWord 104 0x40000000100000002FFFFFFF8 = some (.beq 1 2 (-8)) ∧
  decodeTableWord 104 0x5000000020000000100000008 = some (.blt 2 1 8) ∧
  decodeTableWord 104 0x6000000010008000000000000 = some (.lui 1 524288 0)

/-! ### A step and its instruction -/

/-- A step is `exec` of the instruction the program source answers, read at the pc, or at the target of the branch that
this cycle's Memory sub-step takes (R11, R140); `step` adds nothing around `exec` (that `exec` is a cycle with the instruction
on the program port is the model's reading, log entry 1). -/
def Obligations.StepRunsTheDecodedInstruction : Prop :=
  ∀ s : State,
    fetchRaw s = s.progAt (fetchAddr s) ∧
    (takesBranch s = false → fetchAddr s = s.pc) ∧
    (takesBranch s = true → targetOk (branchTarget s.em.pc s.em.dec.imm) = true →
      fetchAddr s = u32 (branchTarget s.em.pc s.em.dec.imm)) ∧
    ∀ i : Instr, decode (fetchRaw s) = .ok i → step s = exec i s

/-- A word put where the next step fetches is the instruction the next step runs (the model's `withFetchWord` and table
words, log entries 4 and 6). -/
def Obligations.FetchWordIsRunNext : Prop :=
  ∀ (s : State) (nbits w : Nat) (i : Instr), decodeTableWord nbits w = some i →
    fetchRaw (s.withFetchWord nbits w) = encode i ∧
    step (s.withFetchWord nbits w) = exec i (s.withFetchWord nbits w)

/-- In a drained block, `exec` of a well-formed instruction is its fetch: FD takes it with its address, the pc steps to
the next line, and besides the cycle count, `still_active` and the two slots of the empty DE (R146) nothing changes (R153,
R35; what `exec` is, log entry 1; the fields of empty latches, log entry 12). -/
def Obligations.ExecFetchesIntoFD : Prop :=
  ∀ (i : Instr) (s : State), Drained s → WellFormed i = true →
    exec i s = .next { s with
      fd := { s.fd with valid := true, raw := encode i, pc := s.pc }
      pc := s.pc + 4
      de := { s.de with fwdA := FwdSlot.none, fwdB := FwdSlot.none }
      cycle := s.cycle + 1
      stillActive := true }

/-- R12: no cycle changes the program source, and past its last line it answers the sentinel. -/
def Obligations.ProgramSourceIsReadOnly : Prop :=
  (∀ s t : State, CycleTo s t → t.prog = s.prog) ∧
  (∀ (s : State) (a : Word), s.prog.length ≤ a.toNat / 4 → Token.ofCode (s.progAt a).tok = .nop)

/-- R35, R153: in a cycle that raises nothing, the pc is first redirected by a taken branch, then steps by 4 unless the
cycle stalls or the sentinel is fetched. -/
def Obligations.PcChangesInThreeWays : Prop :=
  ∀ s t : State, s.fault = false → step s = .next t → t.fault = false →
    let base := if takesBranch s = true then u32 (branchTarget s.em.pc s.em.dec.imm) else s.pc
    (stalls s = true → t.pc = base) ∧
    (Token.ofCode (fetchRaw s).tok = .nop → t.pc = base) ∧
    (stalls s = false → Token.ofCode (fetchRaw s).tok ≠ .nop →
      t.pc = base + 4 ∧ t.fd.valid = true ∧ t.fd.raw = fetchRaw s ∧ t.fd.pc = base)

/-! ### The sub-steps of a cycle -/

/-- R32, R143: at most one register changes in a cycle, the destination of the instruction in MW; `x0` is written like any
other, and a cycle that faults or finds the block halted changes none. -/
def Obligations.WritebackWritesOneRegister : Prop :=
  (∀ s t : State, QuietCycle s t →
    (s.mw.valid = true → (s.mw.dec.op = .add ∨ s.mw.dec.op = .addi ∨ s.mw.dec.op = .lui) →
      t.regs = s.regs.set s.mw.dec.rd.toNat s.mw.alu s.mw.dec.rd.isLt) ∧
    (s.mw.valid = true → s.mw.dec.op = .lw →
      t.regs = s.regs.set s.mw.dec.rd.toNat s.mw.mdata s.mw.dec.rd.isLt) ∧
    (s.mw.valid = true → (s.mw.dec.op = .sw ∨ s.mw.dec.op = .beq ∨ s.mw.dec.op = .blt) → t.regs = s.regs) ∧
    (s.mw.valid = false → t.regs = s.regs)) ∧
  (∀ s t : State, CycleTo s t → t.fault = true → t.regs = s.regs)

/-- R71, R74, R245: the data memory changes only where the SW in EM stores, at word `EM.alu / 4`; the word stored is
`x[rs2]` as this cycle's WB left it. Every other word, and every byte of it in either byte order, reads as before; the
canonical form is kept (the word list and its byte view are the model's, log entries 3 and 13). -/
def Obligations.MemoryChangesOnlyByTheStore : Prop :=
  ∀ s t : State, Memory.wf s.mem = true → QuietCycle s t →
    (s.em.valid = true → s.em.dec.op = .sw →
      s.em.alu.toNat < 64 ∧
      (∀ k, Memory.read t.mem k =
        if k = s.em.alu.toNat / 4 then t.readReg s.em.dec.rs2 else Memory.read s.mem k) ∧
      (∀ (o : Config.ByteOrder) (a : Nat), a / 4 ≠ s.em.alu.toNat / 4 →
        Memory.byteAt o t.mem a = Memory.byteAt o s.mem a)) ∧
    ((s.em.valid = false ∨ s.em.dec.op ≠ .sw) → t.mem = s.mem) ∧
    Memory.wf t.mem = true

/-- R144, R242: MW takes the instruction in EM; a LW's word is read from the data memory as this cycle finds it. -/
def Obligations.MemoryStageFillsMW : Prop :=
  ∀ s t : State, QuietCycle s t →
    (s.em.valid = false → t.mw.valid = false) ∧
    (s.em.valid = true →
      t.mw.valid = true ∧ t.mw.raw = s.em.raw ∧ t.mw.dec = s.em.dec ∧ t.mw.pc = s.em.pc ∧ t.mw.alu = s.em.alu ∧
      (s.em.dec.op = .lw →
        s.em.alu.toNat < 64 ∧ t.mw.mdata = Memory.read s.mem (s.em.alu.toNat / 4)) ∧
      (s.em.dec.op ≠ .lw → t.mw.mdata = s.mw.mdata))

/-- R191: forwarding rule 2 is never selected, because after MEM the latches MW and EM hold the same instruction. -/
def Obligations.ForwardingRuleTwoNeverSelected : Prop :=
  (∀ (s s1 : State) (src : RegIx), memory (writeback s) = .ok s1 →
    (fwdSelect s1.mw s1.em src).sel ≠ .fromEM ∧
    (emForwards s1.em src = true → mwForwards s1.mw src = true ∧ mwResult s1.mw = s1.em.alu)) ∧
  (∀ s t : State, QuietCycle s t → t.de.fwdA.sel ≠ .fromEM ∧ t.de.fwdB.sel ≠ .fromEM)

/-- R147, R190, R192 and the EX line of every instruction (R220, R222, R224, R240, R262): the ALU result of the
instruction in DE. An operand is the result of the instruction in EM where that writes the register and the register is
not `x0`, and otherwise the register file as this cycle's WB left it. -/
def Obligations.ExecuteComputesIntoEM : Prop :=
  ∀ s t : State, QuietCycle s t →
    let value := fun r : RegIx =>
      if s.em.valid = true ∧ s.em.dec.rd = r ∧ r ≠ 0 then
        match s.em.dec.op with
        | .add | .addi | .lui => s.em.alu
        | .lw => Memory.read s.mem (s.em.alu.toNat / 4)
        | .sw | .beq | .blt => t.readReg r
      else t.readReg r
    let A := value s.de.dec.rs1
    let B := value s.de.dec.rs2
    (s.de.valid = true → takesBranch s = false →
      t.em.valid = true ∧ t.em.raw = s.de.raw ∧ t.em.dec = s.de.dec ∧ t.em.pc = s.de.pc ∧
      t.em.alu = match s.de.dec.op with
        | .add => u32 (A.toNat + B.toNat)
        | .addi => u32 (A.toNat + s.de.dec.imm.toInt)
        | .lw => u32 (A.toNat + s.de.dec.imm.toInt)
        | .sw => u32 (A.toNat + s.de.dec.imm.toInt)
        | .beq => u32 (A.toNat - B.toNat)
        | .blt => u32 (A.toNat - B.toNat)
        | .lui => u32 (s.de.dec.imm.toInt * 2 ^ 12)) ∧
    ((s.de.valid = false ∨ takesBranch s = true) → t.em.valid = false)

/-! ### The load-use stall -/

/-- R200, R204: a cycle stalls exactly when ID moves a LW into DE and the instruction at the pc names the LW's `rd` in
`rs1` or `rs2`, unpopulated zeros included; no other producer stalls. -/
def Obligations.StallsExactlyOnLoadUse : Prop :=
  ∀ s : State, s.fault = false → (∃ s1, beforeFetch s = .ok s1) →
    (stalls s = true ↔
      takesBranch s = false ∧ s.fd.valid = true ∧
      ∃ lw next, decodeRecord s.fd.raw = .ok lw ∧ lw.op = .lw ∧ decodeRecord (s.progAt s.pc) = .ok next ∧
        (lw.rd = next.rs1 ∨ lw.rd = next.rs2))

/-- R203: a LW to `x0` stalls before every ADDI, LW and LUI and before anything that names `x0`; a SW that stores from
or addresses with the LW's `rd` stalls too. -/
def Obligations.ZeroFieldsCountForTheStall : Prop :=
  ∀ (de : Latch) (r : Raw) (d : Decoded), de.valid = true → de.dec.op = .lw → decodeRecord r = .ok d →
    (de.dec.rd = 0 → (d.op = .addi ∨ d.op = .lw ∨ d.op = .lui ∨ d.rs1 = 0 ∨ d.rs2 = 0) →
      loadUse de (some d) = true) ∧
    (d.op = .sw → (d.rs2 = de.dec.rd ∨ d.rs1 = de.dec.rd) → loadUse de (some d) = true)

/-- R153, R201: a stall cycle leaves FD and the pc as they are, and DE holds `ADD x0, x0, x0` with the raw instruction
and the address of the LW it was made from; `still_active` stays 1. -/
def Obligations.StallInsertsTheBubble : Prop :=
  ∀ s : State, stalls s = true →
    ∃ t, step s = .next t ∧ t.fault = false ∧ t.fd = s.fd ∧ t.pc = s.pc ∧ t.stillActive = true ∧
      t.de.valid = true ∧ t.de.raw = s.fd.raw ∧ t.de.pc = s.fd.pc ∧
      t.de.dec = { op := .add, rd := 0, rs1 := 0, rs2 := 0, imm := 0 }

/-- R202, one cycle on: a stall repeats in the next cycle unless that cycle's Memory sub-step raises, or takes a branch;
then the stall ends. -/
def Obligations.StallRepeatsUntilAFlush : Prop :=
  ∀ s t : State, stalls s = true → step s = .next t →
    (takesBranch t = true → stalls t = false) ∧
    (takesBranch t = false → (∃ t1, memory (writeback t) = .ok t1) → stalls t = true)

/-- R202, R330: a LW in FD whose successor names its `rd`, with nothing ahead of it but ADD, ADDI and LUI, never leaves
FD: no later cycle fetches, loads, stores, faults or reports the block inactive, and from the third cycle on every
latch in front of FD holds the bubble. -/
def Obligations.LoadUseLivelock : Prop :=
  ∀ (s : State) (lw next : Decoded), s.fault = false → s.fd.valid = true → decodeRecord s.fd.raw = .ok lw →
    lw.op = .lw → decodeRecord (s.progAt s.pc) = .ok next → (lw.rd = next.rs1 ∨ lw.rd = next.rs2) →
    (s.de.valid = true → s.de.dec.op = .add ∨ s.de.dec.op = .addi ∨ s.de.dec.op = .lui) →
    (s.em.valid = true → s.em.dec.op = .add ∨ s.em.dec.op = .addi ∨ s.em.dec.op = .lui) →
    ∀ n, ∃ t, runs n s = .next t ∧ t.cycle = s.cycle + n ∧ t.fault = false ∧ t.fd = s.fd ∧ t.pc = s.pc ∧
      t.mem = s.mem ∧ (0 < n → t.stillActive = true) ∧
      (3 ≤ n → t.de.valid = true ∧ t.de.dec = Decoded.zero ∧ t.em.valid = true ∧ t.em.dec = Decoded.zero ∧
        t.mw.valid = true ∧ t.mw.dec = Decoded.zero)

/-- R205: while DE is valid, forwarding rule 1 never takes a loaded value. -/
def Obligations.LoadedValueNeverForwarded : Prop :=
  ∀ s s1 : State, Inv s → memory (writeback s) = .ok s1 → s1.de.valid = true → s1.mw.dec.op = .lw →
    mwForwards s1.mw s1.de.dec.rs1 = false ∧ mwForwards s1.mw s1.de.dec.rs2 = false

/-! ### Branches -/

/-- R262: BEQ is taken exactly when the operands are equal; BLT exactly when bit 31 of the wrapped difference is 1,
which differs from the signed comparison exactly when the difference overflows. -/
def Obligations.BranchConditions : Prop :=
  ∀ A B : Word,
    (beqTaken (A - B) = true ↔ A = B) ∧
    (bltTaken (A - B) = true ↔ (A - B).toInt < 0) ∧
    ((bltTaken (A - B) = true ↔ A.toInt < B.toInt) ↔
      (-(2 ^ 31) ≤ A.toInt - B.toInt ∧ A.toInt - B.toInt < 2 ^ 31))

/-- R263, R264, R266: a taken branch with a fetchable target, in its Memory cycle. MW holds the branch; the two younger
instructions are squashed: DE and EM end invalid, and FD holds what stands at the target, or nothing where that is the
sentinel. A target line that does not decode raises at the peek instead (R280). -/
def Obligations.TakenBranchFlushes : Prop :=
  ∀ s : State, s.fault = false → takesBranch s = true →
    let target : Int := s.em.pc.toNat + s.em.dec.imm.toInt
    0 ≤ target → target < 2 ^ 32 → target % 4 = 0 →
    ∃ t, step s = .next t ∧
      match decodeRecord (s.progAt (u32 target)) with
      | .ok _ =>
        t.fault = false ∧ t.fd.valid = true ∧ t.fd.raw = s.progAt (u32 target) ∧ t.fd.pc = u32 target ∧
        t.pc = u32 target + 4 ∧ t.de.valid = false ∧ t.em.valid = false ∧ t.mw.valid = true ∧ t.mw.dec = s.em.dec ∧
        t.mw.pc = s.em.pc ∧ t.mem = s.mem
      | .error .sentinel =>
        t.fault = false ∧ t.fd.valid = false ∧ t.pc = u32 target ∧ t.de.valid = false ∧ t.em.valid = false ∧
        t.mw.valid = true ∧ t.mw.dec = s.em.dec ∧ t.mw.pc = s.em.pc ∧ t.mem = s.mem
      | .error (.unknownMnemonic c) =>
        RecordsFault s t .decodeError .unknownMnemonic (u32 target) c.toNat
      | .error (.registerOutOfRange f) =>
        RecordsFault s t .decodeError .registerOutOfRange (u32 target) f.toInt

/-! ### Faults -/

/-- R282: a cycle that raises a fault leaves every piece of state as it was at its start but the cycle count, the fault
record and `still_active`; the record holds what the sub-step raised and the number of the cycle. -/
def Obligations.FaultUndoesTheCycle : Prop :=
  (∀ s t : State, CycleTo s t → s.fault = false → t.fault = true →
    ∃ info, info.cycle = s.cycle + 1 ∧
      t = { s with cycle := s.cycle + 1, fault := true, faultInfo := some info, stillActive := false }) ∧
  (∀ (s : State) (r : Raise), s.fault = false → subSteps (fetchRaw s) s = .error (.raise r) →
    ∃ t, step s = .next t ∧ RecordsFault s t r.code r.reason r.pc r.value)

/-- R162, R284: a halted block stays as it is, whatever stands on its program port, and reports itself inactive. -/
def Obligations.HaltedBlockDoesNothing : Prop :=
  ∀ s : State, FaultRecordOk s → s.fault = true →
    s.stillActive = false ∧ step s = .next s ∧ ∀ i, exec i s = .next s

/-- R281: MemoryBoundsError, raised exactly by the LW or SW in EM whose effective address is 64 or above. -/
def Obligations.MemoryBoundsErrorIsRecorded : Prop :=
  FaultCode.memoryBounds.number = 2 ∧ FaultReason.none.number = 0 ∧
  (∀ s : State, s.fault = false → s.em.valid = true → (s.em.dec.op = .lw ∨ s.em.dec.op = .sw) →
    64 ≤ s.em.alu.toNat →
    ∃ t, step s = .next t ∧ RecordsFault s t .memoryBounds .none s.em.pc s.em.alu.toNat) ∧
  (∀ (s t : State) (info : FaultInfo), CycleTo s t → s.fault = false → t.fault = true → t.faultInfo = some info →
    info.code = .memoryBounds →
    s.em.valid = true ∧ (s.em.dec.op = .lw ∨ s.em.dec.op = .sw) ∧ 64 ≤ s.em.alu.toNat)

/-- R265, R283: BranchTargetError, raised exactly by a taken branch whose target is negative, 2^32 or more, or no
multiple of 4. -/
def Obligations.BranchTargetErrorIsRecorded : Prop :=
  FaultCode.branchTarget.number = 3 ∧ FaultReason.none.number = 0 ∧
  (∀ s : State, s.fault = false → takesBranch s = true →
    let target : Int := s.em.pc.toNat + s.em.dec.imm.toInt
    (target < 0 ∨ 2 ^ 32 ≤ target ∨ target % 4 ≠ 0) →
    ∃ t, step s = .next t ∧ RecordsFault s t .branchTarget .none s.em.pc target) ∧
  (∀ (s t : State) (info : FaultInfo), CycleTo s t → s.fault = false → t.fault = true → t.faultInfo = some info →
    info.code = .branchTarget →
    takesBranch s = true ∧
    (s.em.pc.toNat + s.em.dec.imm.toInt < 0 ∨ 2 ^ 32 ≤ s.em.pc.toNat + s.em.dec.imm.toInt ∨
      (s.em.pc.toNat + s.em.dec.imm.toInt) % 4 ≠ 0))

/-- R200, R280: a line that does not decode raises DecodeError in the first cycle that peeks at it, whatever the latches
hold, unless that cycle's Memory sub-step has raised (R285). -/
def Obligations.DecodeErrorAtThePeek : Prop :=
  FaultCode.decodeError.number = 1 ∧ FaultReason.unknownMnemonic.number = 1 ∧
  FaultReason.registerOutOfRange.number = 2 ∧
  ∀ s : State, s.fault = false → (∃ s1, beforeFetch s = .ok s1) →
    (∀ c, decodeRecord (fetchRaw s) = .error (.unknownMnemonic c) →
      ∃ t, step s = .next t ∧ RecordsFault s t .decodeError .unknownMnemonic (fetchAddr s) c.toNat) ∧
    (∀ f, decodeRecord (fetchRaw s) = .error (.registerOutOfRange f) →
      ∃ t, step s = .next t ∧ RecordsFault s t .decodeError .registerOutOfRange (fetchAddr s) f.toInt)

/-- R285 point 1: a fault of the Memory sub-step is the one recorded, whatever the peek would have raised. -/
def Obligations.MemoryFaultComesFirst : Prop :=
  ∀ (s : State) (r : Raise), s.fault = false → memory (writeback s) = .error (.raise r) →
    ∃ t, RecordsFault s t r.code r.reason r.pc r.value ∧ step s = .next t ∧ ∀ i, exec i s = .next t

/-- R110, R112, R280 for an instruction a register field of which names no register: `exec` of it records DecodeError
with the first such field. -/
def Obligations.IllFormedInstructionRaises : Prop :=
  ∀ (i : Instr) (f : Field) (s : State), Drained s → i.badField = some f →
    (f.toInt < 0 ∨ 31 < f.toInt) ∧
    ∃ t, exec i s = .next t ∧ RecordsFault s t .decodeError .registerOutOfRange s.pc f.toInt

/-! ### Termination, reset and timing -/

/-- R168: after a cycle that does not fault, FD is valid exactly when the fetch did not return the sentinel, and
`still_active` is "at least one of FD, DE, EM, MW is valid". -/
def Obligations.StillActiveMeansALatchIsValid : Prop :=
  (∀ s t : State, QuietCycle s t → t.stillActive = anyValid t) ∧
  (∀ s t : State, s.fault = false → step s = .next t → t.fault = false →
    (t.fd.valid = false ↔ Token.ofCode (fetchRaw s).tok = .nop))

/-- R161: after a cycle with `still_active = 0` every latch is invalid, and more cycles change the cycle count alone. -/
def Obligations.TerminatedBlockIsAFixpoint : Prop :=
  ∀ s t : State, s.fault = false → step s = .next t → t.fault = false → t.stillActive = false →
    Drained t ∧ SentinelAt t t.pc ∧ ∀ n, runs n t = .next { t with cycle := t.cycle + n }

/-- R47, R320: the state after reset, every field. -/
def Obligations.ResetValues : Prop :=
  (∀ r : RegIx, State.reset.readReg r = 0) ∧ (∀ k, k < 16 → Memory.read State.reset.mem k = 0) ∧
  State.reset.pc = 0 ∧
  (∀ l ∈ [State.reset.fd, State.reset.de, State.reset.em, State.reset.mw],
    l.valid = false ∧ l.raw = { tok := 0, f0 := 0, f1 := 0, f2 := 0 } ∧
    l.dec = { op := .add, rd := 0, rs1 := 0, rs2 := 0, imm := 0 } ∧ l.pc = 0 ∧ l.alu = 0 ∧ l.mdata = 0 ∧
    l.fwdA = { sel := .regFile, val := 0 } ∧ l.fwdB = { sel := .regFile, val := 0 }) ∧
  State.reset.fault = false ∧ State.reset.faultInfo = none ∧ State.reset.cycle = 0 ∧
  State.reset.stillActive = true ∧
  ∀ s : State, s.applyReset = { State.reset with prog := s.prog }

/-- R322: the first cycle after reset is cycle 1 and fetches line 0, or finds the sentinel there. -/
def Obligations.FirstCycleFetchesLineZero : Prop :=
  ∀ (p : List Raw),
    let line := p.getD 0 Raw.sentinel
    ∃ t, step { State.reset with prog := p } = .next t ∧ t.cycle = 1 ∧ t.regs = State.reset.regs ∧ t.mem = [] ∧
      t.de.valid = false ∧ t.em.valid = false ∧ t.mw.valid = false ∧
      match decodeRecord line with
      | .ok _ =>
        t.fault = false ∧ t.fd.valid = true ∧ t.fd.raw = line ∧ t.fd.pc = 0 ∧ t.pc = 4 ∧ t.stillActive = true
      | .error .sentinel => t.fault = false ∧ t.fd.valid = false ∧ t.pc = 0 ∧ t.stillActive = false
      | .error (.unknownMnemonic c) =>
        t.fault = true ∧ t.stillActive = false ∧ t.pc = 0 ∧
        t.faultInfo = some { code := .decodeError, reason := .unknownMnemonic, cycle := 1, pc := 0, value := c.toNat }
      | .error (.registerOutOfRange f) =>
        t.fault = true ∧ t.stillActive = false ∧ t.pc = 0 ∧
        t.faultInfo =
          some { code := .decodeError, reason := .registerOutOfRange, cycle := 1, pc := 0, value := f.toInt }

/-- R165, R166: in a program of `K ≥ 1` real instructions that neither stalls, nor branches, nor faults, line `k` is in
FD after cycle `k+1`, in DE after `k+2`, in EM after `k+3`, in MW after `k+4`, and written back in cycle `k+5`; the last
cycle that returns 1 is `K+3`, and cycle `K+4` returns 0. With no instruction at all, cycle 1 returns 0. -/
def Obligations.StraightLineTiming : Prop :=
  (∀ (p : List Raw) (last : State),
    let s0 : State := { State.reset with prog := p }
    1 ≤ p.length → p.length < 2 ^ 30 → (∀ r ∈ p, Token.ofCode r.tok ≠ .nop) →
    runs (p.length + 4) s0 = .next last → last.fault = false →
    (∀ j t, j < p.length + 4 → runs j s0 = .next t → stalls t = false ∧ takesBranch t = false) →
    (∀ n, 1 ≤ n → n ≤ p.length + 4 →
      ∃ t, runs n s0 = .next t ∧ t.cycle = n ∧ t.fault = false ∧ t.stillActive = decide (n < p.length + 4)) ∧
    (∀ k (hk : k < p.length),
      ∃ t1 t2 t3 t4 t5, runs (k + 1) s0 = .next t1 ∧ runs (k + 2) s0 = .next t2 ∧ runs (k + 3) s0 = .next t3 ∧
        runs (k + 4) s0 = .next t4 ∧ runs (k + 5) s0 = .next t5 ∧
        t1.fd.valid = true ∧ t1.fd.raw = p[k] ∧ t1.fd.pc.toNat = 4 * k ∧
        t2.de.valid = true ∧ t2.de.raw = p[k] ∧ t2.de.pc.toNat = 4 * k ∧
        t3.em.valid = true ∧ t3.em.raw = p[k] ∧ t3.em.pc.toNat = 4 * k ∧
        t4.mw.valid = true ∧ t4.mw.raw = p[k] ∧ t4.mw.pc.toNat = 4 * k ∧
        t5.regs = if writesReg t4.mw.dec.op = true
          then t4.regs.set t4.mw.dec.rd.toNat (mwResult t4.mw) t4.mw.dec.rd.isLt else t4.regs)) ∧
  (∀ s : State, Drained s → SentinelAt s s.pc → ∃ t, step s = .next t ∧ t.stillActive = false)

/-- R286, R325, decision D27: the host starts the block only on a program it can read, of fewer than 2^30 lines, and
then from the reset state (the refusals are the model's names, log entry 9). -/
def Obligations.BootResetsAndLoads : Prop :=
  State.boot none = .refused .programUnreadable ∧
  (∀ p : List Raw, 2 ^ 30 ≤ p.length → State.boot (some p) = .refused .programTooLong) ∧
  (∀ p : List Raw, p.length < 2 ^ 30 → State.boot (some p) = .next { State.reset with prog := p })

/-! ### Each instruction, from its fetch to its retirement in an otherwise empty block -/

/-- ADD (R220, R227): five cycles after it is put on the program port, `x[rd]` is the wrapped sum and nothing else of the
registers, the memory and the fault record has changed. -/
def Obligations.AddCompletes : Prop :=
  ∀ (rd rs1 rs2 : Field) (s : State), Drained s → WellFormed (.add rd rs1 rs2) = true → SentinelAt s (s.pc + 4) →
    ∃ t u, exec (.add rd rs1 rs2) s = .next t ∧ runs 4 t = .next u ∧ Drained u ∧ u.stillActive = false ∧
      u.regs = s.regs.set (regIx rd).toNat (s.readReg (regIx rs1) + s.readReg (regIx rs2)) (regIx rd).isLt ∧
      u.mem = s.mem ∧ u.pc = s.pc + 4 ∧ u.cycle = s.cycle + 5 ∧ u.faultInfo = s.faultInfo

/-- ADDI (R222, R227): as ADD, with `x[rs1] + imm` modulo 2^32. -/
def Obligations.AddiCompletes : Prop :=
  ∀ (rd rs1 imm : Field) (s : State), Drained s → WellFormed (.addi rd rs1 imm) = true → SentinelAt s (s.pc + 4) →
    ∃ t u, exec (.addi rd rs1 imm) s = .next t ∧ runs 4 t = .next u ∧ Drained u ∧ u.stillActive = false ∧
      u.regs = s.regs.set (regIx rd).toNat (u32 ((s.readReg (regIx rs1)).toNat + imm.toInt)) (regIx rd).isLt ∧
      u.mem = s.mem ∧ u.pc = s.pc + 4 ∧ u.cycle = s.cycle + 5 ∧ u.faultInfo = s.faultInfo

/-- LUI (R224, R227): as ADD, with the low 20 bits of the immediate above 12 zeros; the unused field has no effect. -/
def Obligations.LuiCompletes : Prop :=
  ∀ (rd imm unused : Field) (s : State), Drained s → WellFormed (.lui rd imm unused) = true → SentinelAt s (s.pc + 4) →
    ∃ t u, exec (.lui rd imm unused) s = .next t ∧ runs 4 t = .next u ∧ Drained u ∧ u.stillActive = false ∧
      u.regs = s.regs.set (regIx rd).toNat (imm.extractLsb' 0 20 ++ (0 : BitVec 12)) (regIx rd).isLt ∧
      u32 (imm.toInt * 2 ^ 12) = imm.extractLsb' 0 20 ++ (0 : BitVec 12) ∧
      u.mem = s.mem ∧ u.pc = s.pc + 4 ∧ u.cycle = s.cycle + 5 ∧ u.faultInfo = s.faultInfo

/-- LW (R240 to R243): with an effective address below 64, `x[rd]` is the word at that address divided by 4, the low two
bits ignored (R75); at 64 or above, MemoryBoundsError in its Memory cycle, and no register changes. -/
def Obligations.LwCompletes : Prop :=
  ∀ (rd imm rs1 : Field) (s : State), Drained s → WellFormed (.lw rd imm rs1) = true → SentinelAt s (s.pc + 4) →
    let ea := u32 ((s.readReg (regIx rs1)).toNat + imm.toInt)
    (ea.toNat < 64 → ∃ t u, exec (.lw rd imm rs1) s = .next t ∧ runs 4 t = .next u ∧ Drained u ∧
      u.stillActive = false ∧
      u.regs = s.regs.set (regIx rd).toNat (Memory.read s.mem (ea.toNat / 4)) (regIx rd).isLt ∧
      u.mem = s.mem ∧ u.pc = s.pc + 4 ∧ u.cycle = s.cycle + 5 ∧ u.faultInfo = s.faultInfo) ∧
    (64 ≤ ea.toNat → ∃ t u, exec (.lw rd imm rs1) s = .next t ∧ runs 3 t = .next u ∧ u.fault = true ∧
      u.faultInfo = some { code := .memoryBounds, reason := .none, cycle := s.cycle + 4, pc := s.pc, value := ea.toNat } ∧
      u.stillActive = false ∧ u.regs = s.regs ∧ u.mem = s.mem ∧ u.pc = s.pc + 4 ∧ u.cycle = s.cycle + 4)

/-- SW (R240, R244, R245): with an effective address below 64, that word holds `x[rs2]` and every other word reads as
before; at 64 or above, MemoryBoundsError in its Memory cycle, and the memory does not change. No register changes. -/
def Obligations.SwCompletes : Prop :=
  ∀ (rs2 imm rs1 : Field) (s : State), Drained s → WellFormed (.sw rs2 imm rs1) = true → SentinelAt s (s.pc + 4) →
    Memory.wf s.mem = true →
    let ea := u32 ((s.readReg (regIx rs1)).toNat + imm.toInt)
    (ea.toNat < 64 → ∃ t u, exec (.sw rs2 imm rs1) s = .next t ∧ runs 4 t = .next u ∧ Drained u ∧
      u.stillActive = false ∧
      (∀ k, Memory.read u.mem k = if k = ea.toNat / 4 then s.readReg (regIx rs2) else Memory.read s.mem k) ∧
      Memory.wf u.mem = true ∧ u.regs = s.regs ∧ u.pc = s.pc + 4 ∧ u.cycle = s.cycle + 5 ∧
      u.faultInfo = s.faultInfo) ∧
    (64 ≤ ea.toNat → ∃ t u, exec (.sw rs2 imm rs1) s = .next t ∧ runs 3 t = .next u ∧ u.fault = true ∧
      u.faultInfo = some { code := .memoryBounds, reason := .none, cycle := s.cycle + 4, pc := s.pc, value := ea.toNat } ∧
      u.stillActive = false ∧ u.regs = s.regs ∧ u.mem = s.mem ∧ u.pc = s.pc + 4 ∧ u.cycle = s.cycle + 4)

/-- BEQ (R260, R263 to R265). Not taken: it retires after five cycles and changes nothing but the pc's advance. Taken
with a fetchable target: in its Memory cycle, the fourth, the pc is at the target and the block fetches there (stated
here for a target line that decodes, and for the sentinel, where the block then drains). Taken with another target:
BranchTargetError. No register and no memory word changes. -/
def Obligations.BeqCompletes : Prop :=
  ∀ (rs1 rs2 imm : Field) (s : State), Drained s → WellFormed (.beq rs1 rs2 imm) = true → SentinelAt s (s.pc + 4) →
    let taken := s.readReg (regIx rs1) = s.readReg (regIx rs2)
    let target : Int := s.pc.toNat + imm.toInt
    (¬ taken → ∃ t u, exec (.beq rs1 rs2 imm) s = .next t ∧ runs 4 t = .next u ∧ Drained u ∧ u.stillActive = false ∧
      u.regs = s.regs ∧ u.mem = s.mem ∧ u.pc = s.pc + 4 ∧ u.cycle = s.cycle + 5 ∧ u.faultInfo = s.faultInfo) ∧
    (taken → 0 ≤ target → target < 2 ^ 32 → target % 4 = 0 →
      (decodes (s.progAt (u32 target)) = true →
        ∃ t u, exec (.beq rs1 rs2 imm) s = .next t ∧ runs 3 t = .next u ∧ u.fault = false ∧
          u.fd.valid = true ∧ u.fd.raw = s.progAt (u32 target) ∧ u.fd.pc = u32 target ∧ u.pc = u32 target + 4 ∧
          u.de.valid = false ∧ u.em.valid = false ∧ u.mw.valid = true ∧ u.mw.raw = encode (.beq rs1 rs2 imm) ∧
          u.regs = s.regs ∧ u.mem = s.mem ∧ u.stillActive = true ∧ u.cycle = s.cycle + 4) ∧
      (SentinelAt s (u32 target) →
        ∃ t u, exec (.beq rs1 rs2 imm) s = .next t ∧ runs 4 t = .next u ∧ Drained u ∧ u.stillActive = false ∧
          u.regs = s.regs ∧ u.mem = s.mem ∧ u.pc = u32 target ∧ u.cycle = s.cycle + 5 ∧
          u.faultInfo = s.faultInfo)) ∧
    (taken → (target < 0 ∨ 2 ^ 32 ≤ target ∨ target % 4 ≠ 0) →
      ∃ t u, exec (.beq rs1 rs2 imm) s = .next t ∧ runs 3 t = .next u ∧ u.fault = true ∧
        u.faultInfo = some { code := .branchTarget, reason := .none, cycle := s.cycle + 4, pc := s.pc, value := target } ∧
        u.stillActive = false ∧ u.regs = s.regs ∧ u.mem = s.mem ∧ u.pc = s.pc + 4 ∧ u.cycle = s.cycle + 4)

/-- BLT (R261 to R265): as BEQ, taken exactly when bit 31 of the wrapped difference is 1. -/
def Obligations.BltCompletes : Prop :=
  ∀ (rs1 rs2 imm : Field) (s : State), Drained s → WellFormed (.blt rs1 rs2 imm) = true → SentinelAt s (s.pc + 4) →
    let taken := (s.readReg (regIx rs1) - s.readReg (regIx rs2)).getLsbD 31 = true
    let target : Int := s.pc.toNat + imm.toInt
    (¬ taken → ∃ t u, exec (.blt rs1 rs2 imm) s = .next t ∧ runs 4 t = .next u ∧ Drained u ∧ u.stillActive = false ∧
      u.regs = s.regs ∧ u.mem = s.mem ∧ u.pc = s.pc + 4 ∧ u.cycle = s.cycle + 5 ∧ u.faultInfo = s.faultInfo) ∧
    (taken → 0 ≤ target → target < 2 ^ 32 → target % 4 = 0 →
      (decodes (s.progAt (u32 target)) = true →
        ∃ t u, exec (.blt rs1 rs2 imm) s = .next t ∧ runs 3 t = .next u ∧ u.fault = false ∧
          u.fd.valid = true ∧ u.fd.raw = s.progAt (u32 target) ∧ u.fd.pc = u32 target ∧ u.pc = u32 target + 4 ∧
          u.de.valid = false ∧ u.em.valid = false ∧ u.mw.valid = true ∧ u.mw.raw = encode (.blt rs1 rs2 imm) ∧
          u.regs = s.regs ∧ u.mem = s.mem ∧ u.stillActive = true ∧ u.cycle = s.cycle + 4) ∧
      (SentinelAt s (u32 target) →
        ∃ t u, exec (.blt rs1 rs2 imm) s = .next t ∧ runs 4 t = .next u ∧ Drained u ∧ u.stillActive = false ∧
          u.regs = s.regs ∧ u.mem = s.mem ∧ u.pc = u32 target ∧ u.cycle = s.cycle + 5 ∧
          u.faultInfo = s.faultInfo)) ∧
    (taken → (target < 0 ∨ 2 ^ 32 ≤ target ∨ target % 4 ≠ 0) →
      ∃ t u, exec (.blt rs1 rs2 imm) s = .next t ∧ runs 3 t = .next u ∧ u.fault = true ∧
        u.faultInfo = some { code := .branchTarget, reason := .none, cycle := s.cycle + 4, pc := s.pc, value := target } ∧
        u.stillActive = false ∧ u.regs = s.regs ∧ u.mem = s.mem ∧ u.pc = s.pc + 4 ∧ u.cycle = s.cycle + 4)

/-- R225 and R194: the program `LUI rd hi; ADDI rd rd lo` leaves `hi · 2^12 + lo` modulo 2^32 in any register but `x0`,
through forwarding; into `x0`, whose value is never forwarded, the ADDI adds to what `x0` held before the LUI. -/
def Obligations.LuiThenAddi : Prop :=
  ∀ rd hi lo : Field, regFieldOk rd = true →
    ∃ u, runs 6 { State.reset with prog := [encode (.lui rd hi 0), encode (.addi rd rd lo)] } = .next u ∧
      Drained u ∧ u.stillActive = false ∧ u.mem = [] ∧
      u.regs = State.reset.regs.set (regIx rd).toNat
        (if regIx rd = 0 then lo else u32 (hi.toInt * 2 ^ 12 + lo.toInt)) (regIx rd).isLt

/-! ### Invariants and headline results -/

/-- Every cycle keeps the invariant: canonical memory (the model's form, log entry 3), aligned addresses (R36), decoded
latches (R150), spaced loads (R205), a fault record that agrees with the flag (R45, R284), and `still_active` (R168). -/
def Obligations.CycleKeepsInv : Prop := ∀ s t : State, Inv s → CycleTo s t → Inv t

/-- The invariant holds after reset, whatever program is loaded. -/
def Obligations.ResetSatisfiesInv : Prop := ∀ p : List Raw, Inv { State.reset with prog := p }

/-- Under the invariant the block always answers a next state: it neither stops nor refuses (R150, R287; faults are next
states, log entry 2). -/
def Obligations.InvNeverStops : Prop :=
  ∀ s : State, Inv s → (∃ t, step s = .next t) ∧ ∀ i, ∃ t, exec i s = .next t

/-- Two canonical data memories that read alike are the same list (the model's own form of the memory, log entry 3). -/
def Obligations.CanonicalMemoriesAreEqual : Prop :=
  ∀ m m' : Memory, Memory.wf m = true → Memory.wf m' = true → (∀ k, k < 16 → Memory.read m k = Memory.read m' k) →
    m = m'

/-- R164: the start-of-cycle next-state form gives the same state, the same `still_active` and the same fault as the
six sub-steps, cycle by cycle. -/
def Obligations.NextStateFormAgrees : Prop :=
  ∀ s : State, s.fault = false → (s.fd.valid = true → decodes s.fd.raw = true) →
    match nextForm s with
    | .ok v => ∃ t, step s = .next t ∧ t.fault = false ∧ t.view = v
    | .error r => ∃ t, step s = .next t ∧ RecordsFault s t r.code r.reason r.pc r.value

/-- R195: a run of a drained block that terminates without a fault and without a write to `x0` reaching WB leaves the
registers and the data memory that sequential, one-at-a-time execution of the same program leaves at its first
sentinel. -/
def Obligations.PipelineMatchesSequential : Prop :=
  ∀ (s t : State) (n : Nat), Drained s → runs (n + 1) s = .next t → t.fault = false → t.stillActive = false →
    (∀ j u, j ≤ n → runs j s = .next u → u.mw.valid = true → writesReg u.mw.dec.op = true → u.mw.dec.rd ≠ 0) →
    ∃ m q, SeqState.run s.prog m { regs := s.regs, mem := s.mem, pc := s.pc } = some q ∧
      Token.ofCode (q.line s.prog).tok = .nop ∧ t.regs = q.regs ∧ t.mem = q.mem

/-- R42: the fields of an invalid latch, and the other fields R41 does not list as read, reach nothing that is
observable, in any number of cycles. -/
def Obligations.InvalidLatchFieldsUnobservable : Prop :=
  ∀ (s s' : State) (n : Nat), SameButDontCare s s' →
    (∀ t, runs n s = .next t → ∃ t', runs n s' = .next t' ∧ SameButDontCare t t') ∧
    (∀ f, runs n s = .fault f → runs n s' = .fault f)
end

