-- ==== Sys2Proof/Laws/Memory.lean ====
section
/-! SUPPORT. The data memory: every write keeps the canonical form, a read after a write, and equal contents are equal
data. -/

namespace Sys2Proof.Machine

theorem wfFrom_cons {lo j : Nat} {w : Word} {m : Memory} :
    Memory.wfFrom lo ((j, w) :: m) = true ↔
      lo ≤ j ∧ j < Config.dmemWords ∧ w ≠ 0 ∧ Memory.wfFrom (j + 1) m = true := by
  simp [Memory.wfFrom, and_assoc]

theorem wfFrom_mono {m : Memory} {lo lo' : Nat} (h : lo' ≤ lo) (hm : Memory.wfFrom lo m = true) :
    Memory.wfFrom lo' m = true := by
  cases m with
  | nil => rfl
  | cons p m =>
    obtain ⟨j, w⟩ := p
    rw [wfFrom_cons] at hm ⊢
    exact ⟨h.trans hm.1, hm.2⟩

/-- A word below the first listed index reads as 0. -/
theorem read_below {m : Memory} {lo k : Nat} (hm : Memory.wfFrom lo m = true) (hk : k < lo) :
    Memory.read m k = 0 := by
  induction m generalizing lo with
  | nil => rfl
  | cons p m ih =>
    obtain ⟨j, w⟩ := p
    obtain ⟨h1, _, _, h4⟩ := wfFrom_cons.mp hm
    have hne : j ≠ k := by omega
    simp only [Memory.read, hne, if_false]
    exact ih h4 (by omega)

theorem insert_wfFrom {m : Memory} {lo k : Nat} (v : Word) (hm : Memory.wfFrom lo m = true) (hlo : lo ≤ k)
    (hk : k < Config.dmemWords) : Memory.wfFrom lo (Memory.insert k v m) = true := by
  induction m generalizing lo with
  | nil =>
    by_cases hv : v = 0
    · rw [Memory.insert, if_pos hv]; rfl
    · rw [Memory.insert, if_neg hv, wfFrom_cons]
      exact ⟨hlo, hk, hv, rfl⟩
  | cons p m ih =>
    obtain ⟨j, w⟩ := p
    obtain ⟨h1, h2, h3, h4⟩ := wfFrom_cons.mp hm
    unfold Memory.insert
    by_cases hkj : k < j
    · by_cases hv : v = 0
      · simpa [hkj, hv] using hm
      · simp only [hkj, if_true, hv, if_false]
        rw [wfFrom_cons, wfFrom_cons]
        exact ⟨hlo, hk, hv, by omega, h2, h3, h4⟩
    · by_cases he : k = j
      · subst he
        by_cases hv : v = 0
        · simpa [hkj, hv] using wfFrom_mono (by omega) h4
        · simp only [hkj, if_false, if_true, hv]
          rw [wfFrom_cons]
          exact ⟨hlo, hk, hv, h4⟩
      · simp only [hkj, if_false, he]
        rw [wfFrom_cons]
        exact ⟨h1, h2, h3, ih h4 (by omega)⟩

/-- Every write to one of the 16 words keeps the canonical form. -/
theorem write_wf {m : Memory} {k : Nat} (v : Word) (hm : Memory.wf m = true) (hk : k < Config.dmemWords) :
    Memory.wf (Memory.write m k v) = true :=
  insert_wfFrom v hm (Nat.zero_le k) hk

theorem read_insert {m : Memory} {lo : Nat} (k : Nat) (v : Word) (j : Nat) (hm : Memory.wfFrom lo m = true) :
    Memory.read (Memory.insert k v m) j = if j = k then v else Memory.read m j := by
  induction m generalizing lo with
  | nil =>
    by_cases hv : v = 0
    · rw [Memory.insert, if_pos hv, hv]; simp [Memory.read]
    · rw [Memory.insert, if_neg hv]; simp only [Memory.read, eq_comm (a := j)]
  | cons p m ih =>
    obtain ⟨i, w⟩ := p
    obtain ⟨h1, h2, h3, h4⟩ := wfFrom_cons.mp hm
    unfold Memory.insert
    by_cases hki : k < i
    · by_cases hv : v = 0
      · simp only [hki, if_true, hv]
        by_cases hj : j = k
        · subst hj
          have hij : i ≠ j := by omega
          simp only [Memory.read, hij, if_false, if_true]
          exact read_below h4 (by omega)
        · simp [hj]
      · simp only [hki, if_true, hv, if_false, Memory.read, eq_comm (a := k)]
    · by_cases he : k = i
      · subst he
        by_cases hv : v = 0
        · simp only [hki, if_false, if_true, hv]
          by_cases hj : j = k
          · subst hj; simpa using read_below h4 (by omega)
          · have : k ≠ j := fun h => hj h.symm
            simp only [hj, if_false, Memory.read, this]
        · simp only [hki, if_false, if_true, hv, Memory.read]
          by_cases hj : j = k
          · simp [hj]
          · have : k ≠ j := fun h => hj h.symm
            simp [hj, this]
      · simp only [hki, if_false, he, Memory.read, ih h4]
        by_cases hj : i = j
        · have : j ≠ k := by omega
          simp [hj, this]
        · simp [hj]

/-- A word read after a write: the value written, or what stood there (R74). -/
theorem read_write {m : Memory} (k : Nat) (v : Word) (j : Nat) (hm : Memory.wf m = true) :
    Memory.read (Memory.write m k v) j = if j = k then v else Memory.read m j :=
  read_insert k v j hm

end Sys2Proof.Machine
end

