-- ==== Sys2Proof/Laws/Decode.lean ====
section
/-! SUPPORT. What the decoder and the encoder do, said once. -/

namespace Sys2Proof

theorem select_encode (i : Instr) : (encode i).select = .ok i := by cases i <;> rfl

/-- The token decides which instruction a raw record is, and the record is that instruction's encoding. -/
theorem encode_of_select {r : Raw} {i : Instr} (h : r.select = .ok i) : encode i = r := by
  obtain ⟨tok, f0, f1, f2⟩ := r
  have key : ∀ t : BitVec 4, Raw.select { tok := t, f0 := f0, f1 := f1, f2 := f2 } = .ok i →
      encode i = { tok := t, f0 := f0, f1 := f1, f2 := f2 } := by
    intro t ht
    have hlt := t.isLt
    obtain ⟨n, rfl⟩ : ∃ n : Fin 16, t = BitVec.ofFin n := ⟨t.toFin, rfl⟩
    fin_cases n <;> simp [Raw.select, Token.ofCode, BitVec.toNat] at ht <;> subst ht <;> rfl
  exact key tok h

theorem badField_eq_none {i : Instr} : i.badField = none ↔ WellFormed i = true := by
  simp [Instr.badField, WellFormed, List.find?_eq_none]

/-- A register-role field passes the check exactly when, read as an unsigned number, it is below 32 (R112). -/
theorem regFieldOk_iff (f : Field) : regFieldOk f = true ↔ f.toNat < 32 := by
  have := f.isLt
  simp only [regFieldOk, Bool.and_eq_true, decide_eq_true_eq, BitVec.toInt_eq_toNat_cond]
  split <;> omega

theorem regIx_toNat {f : Field} (h : regFieldOk f = true) : (regIx f).toNat = f.toNat := by
  have := (regFieldOk_iff f).mp h
  simp only [regIx, BitVec.toNat_setWidth]
  omega

/-- What an accepted raw instruction is: the encoding of the answer, every register-role field in range (R110). -/
theorem decode_cases {r : Raw} {i : Instr} (h : decode r = .ok i) : encode i = r ∧ WellFormed i = true := by
  unfold decode at h
  split at h
  · cases h
  · rename_i j hj
    split at h
    · cases h
    · rename_i hb
      cases h
      exact ⟨encode_of_select hj, badField_eq_none.mp hb⟩

theorem decodeRecord_cases {r : Raw} {d : Decoded} (h : decodeRecord r = .ok d) :
    ∃ i, decode r = .ok i ∧ d = i.record := by
  unfold decodeRecord at h
  split at h
  · rename_i i hi; cases h; exact ⟨i, hi, rfl⟩
  · cases h

theorem decodeRecord_of_decode {r : Raw} {i : Instr} (h : decode r = .ok i) : decodeRecord r = .ok i.record := by
  simp [decodeRecord, h]

/-- The decoded record of an instruction carries the opcode of its constructor (R105). -/
theorem encode_tok (i : Instr) : (encode i).tok = i.record.op.tokenCode := by cases i <;> rfl

end Sys2Proof
end

