-- ==== Sys2Proof/Laws/State.lean ====
section
/-! SUPPORT. One lemma per field and named update of the state, each true by unfolding, so that no later proof unfolds a
record update. -/

namespace Sys2Proof.Machine

variable (s : State)


/-! ### writeReg -/

@[simp] theorem writeReg_regs (r : RegIx) (v : Word) : (s.writeReg r v).regs = s.regs.set r.toNat v r.isLt := rfl
@[simp] theorem writeReg_mem (r : RegIx) (v : Word) : (s.writeReg r v).mem = s.mem := rfl
@[simp] theorem writeReg_pc (r : RegIx) (v : Word) : (s.writeReg r v).pc = s.pc := rfl
@[simp] theorem writeReg_fd (r : RegIx) (v : Word) : (s.writeReg r v).fd = s.fd := rfl
@[simp] theorem writeReg_de (r : RegIx) (v : Word) : (s.writeReg r v).de = s.de := rfl
@[simp] theorem writeReg_em (r : RegIx) (v : Word) : (s.writeReg r v).em = s.em := rfl
@[simp] theorem writeReg_mw (r : RegIx) (v : Word) : (s.writeReg r v).mw = s.mw := rfl
@[simp] theorem writeReg_fault (r : RegIx) (v : Word) : (s.writeReg r v).fault = s.fault := rfl
@[simp] theorem writeReg_faultInfo (r : RegIx) (v : Word) : (s.writeReg r v).faultInfo = s.faultInfo := rfl
@[simp] theorem writeReg_cycle (r : RegIx) (v : Word) : (s.writeReg r v).cycle = s.cycle := rfl
@[simp] theorem writeReg_stillActive (r : RegIx) (v : Word) : (s.writeReg r v).stillActive = s.stillActive := rfl
@[simp] theorem writeReg_prog (r : RegIx) (v : Word) : (s.writeReg r v).prog = s.prog := rfl

/-! ### writeWord -/

@[simp] theorem writeWord_regs (k : Nat) (v : Word) : (s.writeWord k v).regs = s.regs := rfl
@[simp] theorem writeWord_mem (k : Nat) (v : Word) : (s.writeWord k v).mem = Memory.write s.mem k v := rfl
@[simp] theorem writeWord_pc (k : Nat) (v : Word) : (s.writeWord k v).pc = s.pc := rfl
@[simp] theorem writeWord_fd (k : Nat) (v : Word) : (s.writeWord k v).fd = s.fd := rfl
@[simp] theorem writeWord_de (k : Nat) (v : Word) : (s.writeWord k v).de = s.de := rfl
@[simp] theorem writeWord_em (k : Nat) (v : Word) : (s.writeWord k v).em = s.em := rfl
@[simp] theorem writeWord_mw (k : Nat) (v : Word) : (s.writeWord k v).mw = s.mw := rfl
@[simp] theorem writeWord_fault (k : Nat) (v : Word) : (s.writeWord k v).fault = s.fault := rfl
@[simp] theorem writeWord_faultInfo (k : Nat) (v : Word) : (s.writeWord k v).faultInfo = s.faultInfo := rfl
@[simp] theorem writeWord_cycle (k : Nat) (v : Word) : (s.writeWord k v).cycle = s.cycle := rfl
@[simp] theorem writeWord_stillActive (k : Nat) (v : Word) : (s.writeWord k v).stillActive = s.stillActive := rfl
@[simp] theorem writeWord_prog (k : Nat) (v : Word) : (s.writeWord k v).prog = s.prog := rfl

/-! ### withLine -/

@[simp] theorem withLine_regs (n : Nat) (r : Raw) : (s.withLine n r).regs = s.regs := rfl
@[simp] theorem withLine_mem (n : Nat) (r : Raw) : (s.withLine n r).mem = s.mem := rfl
@[simp] theorem withLine_pc (n : Nat) (r : Raw) : (s.withLine n r).pc = s.pc := rfl
@[simp] theorem withLine_fd (n : Nat) (r : Raw) : (s.withLine n r).fd = s.fd := rfl
@[simp] theorem withLine_de (n : Nat) (r : Raw) : (s.withLine n r).de = s.de := rfl
@[simp] theorem withLine_em (n : Nat) (r : Raw) : (s.withLine n r).em = s.em := rfl
@[simp] theorem withLine_mw (n : Nat) (r : Raw) : (s.withLine n r).mw = s.mw := rfl
@[simp] theorem withLine_fault (n : Nat) (r : Raw) : (s.withLine n r).fault = s.fault := rfl
@[simp] theorem withLine_faultInfo (n : Nat) (r : Raw) : (s.withLine n r).faultInfo = s.faultInfo := rfl
@[simp] theorem withLine_cycle (n : Nat) (r : Raw) : (s.withLine n r).cycle = s.cycle := rfl
@[simp] theorem withLine_stillActive (n : Nat) (r : Raw) : (s.withLine n r).stillActive = s.stillActive := rfl
@[simp] theorem withLine_prog (n : Nat) (r : Raw) : (s.withLine n r).prog = setLine s.prog n r := rfl

/-! ### setPc -/

@[simp] theorem setPc_regs (a : Word) : (s.setPc a).regs = s.regs := rfl
@[simp] theorem setPc_mem (a : Word) : (s.setPc a).mem = s.mem := rfl
@[simp] theorem setPc_pc (a : Word) : (s.setPc a).pc = a := rfl
@[simp] theorem setPc_fd (a : Word) : (s.setPc a).fd = s.fd := rfl
@[simp] theorem setPc_de (a : Word) : (s.setPc a).de = s.de := rfl
@[simp] theorem setPc_em (a : Word) : (s.setPc a).em = s.em := rfl
@[simp] theorem setPc_mw (a : Word) : (s.setPc a).mw = s.mw := rfl
@[simp] theorem setPc_fault (a : Word) : (s.setPc a).fault = s.fault := rfl
@[simp] theorem setPc_faultInfo (a : Word) : (s.setPc a).faultInfo = s.faultInfo := rfl
@[simp] theorem setPc_cycle (a : Word) : (s.setPc a).cycle = s.cycle := rfl
@[simp] theorem setPc_stillActive (a : Word) : (s.setPc a).stillActive = s.stillActive := rfl
@[simp] theorem setPc_prog (a : Word) : (s.setPc a).prog = s.prog := rfl

/-! ### copyToMW -/

@[simp] theorem copyToMW_regs : (s.copyToMW).regs = s.regs := rfl
@[simp] theorem copyToMW_mem : (s.copyToMW).mem = s.mem := rfl
@[simp] theorem copyToMW_pc : (s.copyToMW).pc = s.pc := rfl
@[simp] theorem copyToMW_fd : (s.copyToMW).fd = s.fd := rfl
@[simp] theorem copyToMW_de : (s.copyToMW).de = s.de := rfl
@[simp] theorem copyToMW_em : (s.copyToMW).em = s.em := rfl
@[simp] theorem copyToMW_mw : (s.copyToMW).mw = { s.mw with valid := true, raw := s.em.raw, dec := s.em.dec, pc := s.em.pc, alu := s.em.alu } := rfl
@[simp] theorem copyToMW_fault : (s.copyToMW).fault = s.fault := rfl
@[simp] theorem copyToMW_faultInfo : (s.copyToMW).faultInfo = s.faultInfo := rfl
@[simp] theorem copyToMW_cycle : (s.copyToMW).cycle = s.cycle := rfl
@[simp] theorem copyToMW_stillActive : (s.copyToMW).stillActive = s.stillActive := rfl
@[simp] theorem copyToMW_prog : (s.copyToMW).prog = s.prog := rfl

/-! ### clearMW -/

@[simp] theorem clearMW_regs : (s.clearMW).regs = s.regs := rfl
@[simp] theorem clearMW_mem : (s.clearMW).mem = s.mem := rfl
@[simp] theorem clearMW_pc : (s.clearMW).pc = s.pc := rfl
@[simp] theorem clearMW_fd : (s.clearMW).fd = s.fd := rfl
@[simp] theorem clearMW_de : (s.clearMW).de = s.de := rfl
@[simp] theorem clearMW_em : (s.clearMW).em = s.em := rfl
@[simp] theorem clearMW_mw : (s.clearMW).mw = { s.mw with valid := false } := rfl
@[simp] theorem clearMW_fault : (s.clearMW).fault = s.fault := rfl
@[simp] theorem clearMW_faultInfo : (s.clearMW).faultInfo = s.faultInfo := rfl
@[simp] theorem clearMW_cycle : (s.clearMW).cycle = s.cycle := rfl
@[simp] theorem clearMW_stillActive : (s.clearMW).stillActive = s.stillActive := rfl
@[simp] theorem clearMW_prog : (s.clearMW).prog = s.prog := rfl

/-! ### setMdata -/

@[simp] theorem setMdata_regs (v : Word) : (s.setMdata v).regs = s.regs := rfl
@[simp] theorem setMdata_mem (v : Word) : (s.setMdata v).mem = s.mem := rfl
@[simp] theorem setMdata_pc (v : Word) : (s.setMdata v).pc = s.pc := rfl
@[simp] theorem setMdata_fd (v : Word) : (s.setMdata v).fd = s.fd := rfl
@[simp] theorem setMdata_de (v : Word) : (s.setMdata v).de = s.de := rfl
@[simp] theorem setMdata_em (v : Word) : (s.setMdata v).em = s.em := rfl
@[simp] theorem setMdata_mw (v : Word) : (s.setMdata v).mw = { s.mw with mdata := v } := rfl
@[simp] theorem setMdata_fault (v : Word) : (s.setMdata v).fault = s.fault := rfl
@[simp] theorem setMdata_faultInfo (v : Word) : (s.setMdata v).faultInfo = s.faultInfo := rfl
@[simp] theorem setMdata_cycle (v : Word) : (s.setMdata v).cycle = s.cycle := rfl
@[simp] theorem setMdata_stillActive (v : Word) : (s.setMdata v).stillActive = s.stillActive := rfl
@[simp] theorem setMdata_prog (v : Word) : (s.setMdata v).prog = s.prog := rfl

/-! ### flush -/

@[simp] theorem flush_regs : (s.flush).regs = s.regs := rfl
@[simp] theorem flush_mem : (s.flush).mem = s.mem := rfl
@[simp] theorem flush_pc : (s.flush).pc = s.pc := rfl
@[simp] theorem flush_fd : (s.flush).fd = { s.fd with valid := false } := rfl
@[simp] theorem flush_de : (s.flush).de = { s.de with valid := false } := rfl
@[simp] theorem flush_em : (s.flush).em = { s.em with valid := false } := rfl
@[simp] theorem flush_mw : (s.flush).mw = s.mw := rfl
@[simp] theorem flush_fault : (s.flush).fault = s.fault := rfl
@[simp] theorem flush_faultInfo : (s.flush).faultInfo = s.faultInfo := rfl
@[simp] theorem flush_cycle : (s.flush).cycle = s.cycle := rfl
@[simp] theorem flush_stillActive : (s.flush).stillActive = s.stillActive := rfl
@[simp] theorem flush_prog : (s.flush).prog = s.prog := rfl

/-! ### setFwd -/

@[simp] theorem setFwd_regs (a b : FwdSlot) : (s.setFwd a b).regs = s.regs := rfl
@[simp] theorem setFwd_mem (a b : FwdSlot) : (s.setFwd a b).mem = s.mem := rfl
@[simp] theorem setFwd_pc (a b : FwdSlot) : (s.setFwd a b).pc = s.pc := rfl
@[simp] theorem setFwd_fd (a b : FwdSlot) : (s.setFwd a b).fd = s.fd := rfl
@[simp] theorem setFwd_de (a b : FwdSlot) : (s.setFwd a b).de = { s.de with fwdA := a, fwdB := b } := rfl
@[simp] theorem setFwd_em (a b : FwdSlot) : (s.setFwd a b).em = s.em := rfl
@[simp] theorem setFwd_mw (a b : FwdSlot) : (s.setFwd a b).mw = s.mw := rfl
@[simp] theorem setFwd_fault (a b : FwdSlot) : (s.setFwd a b).fault = s.fault := rfl
@[simp] theorem setFwd_faultInfo (a b : FwdSlot) : (s.setFwd a b).faultInfo = s.faultInfo := rfl
@[simp] theorem setFwd_cycle (a b : FwdSlot) : (s.setFwd a b).cycle = s.cycle := rfl
@[simp] theorem setFwd_stillActive (a b : FwdSlot) : (s.setFwd a b).stillActive = s.stillActive := rfl
@[simp] theorem setFwd_prog (a b : FwdSlot) : (s.setFwd a b).prog = s.prog := rfl

/-! ### copyToEM -/

@[simp] theorem copyToEM_regs (v : Word) : (s.copyToEM v).regs = s.regs := rfl
@[simp] theorem copyToEM_mem (v : Word) : (s.copyToEM v).mem = s.mem := rfl
@[simp] theorem copyToEM_pc (v : Word) : (s.copyToEM v).pc = s.pc := rfl
@[simp] theorem copyToEM_fd (v : Word) : (s.copyToEM v).fd = s.fd := rfl
@[simp] theorem copyToEM_de (v : Word) : (s.copyToEM v).de = s.de := rfl
@[simp] theorem copyToEM_em (v : Word) : (s.copyToEM v).em = { s.em with valid := true, raw := s.de.raw, dec := s.de.dec, pc := s.de.pc, alu := v } := rfl
@[simp] theorem copyToEM_mw (v : Word) : (s.copyToEM v).mw = s.mw := rfl
@[simp] theorem copyToEM_fault (v : Word) : (s.copyToEM v).fault = s.fault := rfl
@[simp] theorem copyToEM_faultInfo (v : Word) : (s.copyToEM v).faultInfo = s.faultInfo := rfl
@[simp] theorem copyToEM_cycle (v : Word) : (s.copyToEM v).cycle = s.cycle := rfl
@[simp] theorem copyToEM_stillActive (v : Word) : (s.copyToEM v).stillActive = s.stillActive := rfl
@[simp] theorem copyToEM_prog (v : Word) : (s.copyToEM v).prog = s.prog := rfl

/-! ### clearEM -/

@[simp] theorem clearEM_regs : (s.clearEM).regs = s.regs := rfl
@[simp] theorem clearEM_mem : (s.clearEM).mem = s.mem := rfl
@[simp] theorem clearEM_pc : (s.clearEM).pc = s.pc := rfl
@[simp] theorem clearEM_fd : (s.clearEM).fd = s.fd := rfl
@[simp] theorem clearEM_de : (s.clearEM).de = s.de := rfl
@[simp] theorem clearEM_em : (s.clearEM).em = { s.em with valid := false } := rfl
@[simp] theorem clearEM_mw : (s.clearEM).mw = s.mw := rfl
@[simp] theorem clearEM_fault : (s.clearEM).fault = s.fault := rfl
@[simp] theorem clearEM_faultInfo : (s.clearEM).faultInfo = s.faultInfo := rfl
@[simp] theorem clearEM_cycle : (s.clearEM).cycle = s.cycle := rfl
@[simp] theorem clearEM_stillActive : (s.clearEM).stillActive = s.stillActive := rfl
@[simp] theorem clearEM_prog : (s.clearEM).prog = s.prog := rfl

/-! ### copyToDE -/

@[simp] theorem copyToDE_regs (d : Decoded) : (s.copyToDE d).regs = s.regs := rfl
@[simp] theorem copyToDE_mem (d : Decoded) : (s.copyToDE d).mem = s.mem := rfl
@[simp] theorem copyToDE_pc (d : Decoded) : (s.copyToDE d).pc = s.pc := rfl
@[simp] theorem copyToDE_fd (d : Decoded) : (s.copyToDE d).fd = s.fd := rfl
@[simp] theorem copyToDE_de (d : Decoded) : (s.copyToDE d).de = { s.de with valid := true, raw := s.fd.raw, dec := d, pc := s.fd.pc } := rfl
@[simp] theorem copyToDE_em (d : Decoded) : (s.copyToDE d).em = s.em := rfl
@[simp] theorem copyToDE_mw (d : Decoded) : (s.copyToDE d).mw = s.mw := rfl
@[simp] theorem copyToDE_fault (d : Decoded) : (s.copyToDE d).fault = s.fault := rfl
@[simp] theorem copyToDE_faultInfo (d : Decoded) : (s.copyToDE d).faultInfo = s.faultInfo := rfl
@[simp] theorem copyToDE_cycle (d : Decoded) : (s.copyToDE d).cycle = s.cycle := rfl
@[simp] theorem copyToDE_stillActive (d : Decoded) : (s.copyToDE d).stillActive = s.stillActive := rfl
@[simp] theorem copyToDE_prog (d : Decoded) : (s.copyToDE d).prog = s.prog := rfl

/-! ### clearDE -/

@[simp] theorem clearDE_regs : (s.clearDE).regs = s.regs := rfl
@[simp] theorem clearDE_mem : (s.clearDE).mem = s.mem := rfl
@[simp] theorem clearDE_pc : (s.clearDE).pc = s.pc := rfl
@[simp] theorem clearDE_fd : (s.clearDE).fd = s.fd := rfl
@[simp] theorem clearDE_de : (s.clearDE).de = { s.de with valid := false } := rfl
@[simp] theorem clearDE_em : (s.clearDE).em = s.em := rfl
@[simp] theorem clearDE_mw : (s.clearDE).mw = s.mw := rfl
@[simp] theorem clearDE_fault : (s.clearDE).fault = s.fault := rfl
@[simp] theorem clearDE_faultInfo : (s.clearDE).faultInfo = s.faultInfo := rfl
@[simp] theorem clearDE_cycle : (s.clearDE).cycle = s.cycle := rfl
@[simp] theorem clearDE_stillActive : (s.clearDE).stillActive = s.stillActive := rfl
@[simp] theorem clearDE_prog : (s.clearDE).prog = s.prog := rfl

/-! ### insertBubble -/

@[simp] theorem insertBubble_regs : (s.insertBubble).regs = s.regs := rfl
@[simp] theorem insertBubble_mem : (s.insertBubble).mem = s.mem := rfl
@[simp] theorem insertBubble_pc : (s.insertBubble).pc = s.pc := rfl
@[simp] theorem insertBubble_fd : (s.insertBubble).fd = s.fd := rfl
@[simp] theorem insertBubble_de : (s.insertBubble).de = { s.de with dec := Decoded.zero } := rfl
@[simp] theorem insertBubble_em : (s.insertBubble).em = s.em := rfl
@[simp] theorem insertBubble_mw : (s.insertBubble).mw = s.mw := rfl
@[simp] theorem insertBubble_fault : (s.insertBubble).fault = s.fault := rfl
@[simp] theorem insertBubble_faultInfo : (s.insertBubble).faultInfo = s.faultInfo := rfl
@[simp] theorem insertBubble_cycle : (s.insertBubble).cycle = s.cycle := rfl
@[simp] theorem insertBubble_stillActive : (s.insertBubble).stillActive = s.stillActive := rfl
@[simp] theorem insertBubble_prog : (s.insertBubble).prog = s.prog := rfl

/-! ### fetch -/

@[simp] theorem fetch_regs (r : Raw) : (s.fetch r).regs = s.regs := rfl
@[simp] theorem fetch_mem (r : Raw) : (s.fetch r).mem = s.mem := rfl
@[simp] theorem fetch_pc (r : Raw) : (s.fetch r).pc = nextLine s.pc := rfl
@[simp] theorem fetch_fd (r : Raw) : (s.fetch r).fd = { s.fd with valid := true, raw := r, pc := s.pc } := rfl
@[simp] theorem fetch_de (r : Raw) : (s.fetch r).de = s.de := rfl
@[simp] theorem fetch_em (r : Raw) : (s.fetch r).em = s.em := rfl
@[simp] theorem fetch_mw (r : Raw) : (s.fetch r).mw = s.mw := rfl
@[simp] theorem fetch_fault (r : Raw) : (s.fetch r).fault = s.fault := rfl
@[simp] theorem fetch_faultInfo (r : Raw) : (s.fetch r).faultInfo = s.faultInfo := rfl
@[simp] theorem fetch_cycle (r : Raw) : (s.fetch r).cycle = s.cycle := rfl
@[simp] theorem fetch_stillActive (r : Raw) : (s.fetch r).stillActive = s.stillActive := rfl
@[simp] theorem fetch_prog (r : Raw) : (s.fetch r).prog = s.prog := rfl

/-! ### clearFD -/

@[simp] theorem clearFD_regs : (s.clearFD).regs = s.regs := rfl
@[simp] theorem clearFD_mem : (s.clearFD).mem = s.mem := rfl
@[simp] theorem clearFD_pc : (s.clearFD).pc = s.pc := rfl
@[simp] theorem clearFD_fd : (s.clearFD).fd = { s.fd with valid := false } := rfl
@[simp] theorem clearFD_de : (s.clearFD).de = s.de := rfl
@[simp] theorem clearFD_em : (s.clearFD).em = s.em := rfl
@[simp] theorem clearFD_mw : (s.clearFD).mw = s.mw := rfl
@[simp] theorem clearFD_fault : (s.clearFD).fault = s.fault := rfl
@[simp] theorem clearFD_faultInfo : (s.clearFD).faultInfo = s.faultInfo := rfl
@[simp] theorem clearFD_cycle : (s.clearFD).cycle = s.cycle := rfl
@[simp] theorem clearFD_stillActive : (s.clearFD).stillActive = s.stillActive := rfl
@[simp] theorem clearFD_prog : (s.clearFD).prog = s.prog := rfl

/-! ### endCycle -/

@[simp] theorem endCycle_regs (b : Bool) : (s.endCycle b).regs = s.regs := rfl
@[simp] theorem endCycle_mem (b : Bool) : (s.endCycle b).mem = s.mem := rfl
@[simp] theorem endCycle_pc (b : Bool) : (s.endCycle b).pc = s.pc := rfl
@[simp] theorem endCycle_fd (b : Bool) : (s.endCycle b).fd = s.fd := rfl
@[simp] theorem endCycle_de (b : Bool) : (s.endCycle b).de = s.de := rfl
@[simp] theorem endCycle_em (b : Bool) : (s.endCycle b).em = s.em := rfl
@[simp] theorem endCycle_mw (b : Bool) : (s.endCycle b).mw = s.mw := rfl
@[simp] theorem endCycle_fault (b : Bool) : (s.endCycle b).fault = s.fault := rfl
@[simp] theorem endCycle_faultInfo (b : Bool) : (s.endCycle b).faultInfo = s.faultInfo := rfl
@[simp] theorem endCycle_cycle (b : Bool) : (s.endCycle b).cycle = s.cycle + 1 := rfl
@[simp] theorem endCycle_stillActive (b : Bool) : (s.endCycle b).stillActive = !(b && !s.de.valid && !s.em.valid && !s.mw.valid) := rfl
@[simp] theorem endCycle_prog (b : Bool) : (s.endCycle b).prog = s.prog := rfl

/-! ### takeFault -/

@[simp] theorem takeFault_regs (r : Raise) : (s.takeFault r).regs = s.regs := rfl
@[simp] theorem takeFault_mem (r : Raise) : (s.takeFault r).mem = s.mem := rfl
@[simp] theorem takeFault_pc (r : Raise) : (s.takeFault r).pc = s.pc := rfl
@[simp] theorem takeFault_fd (r : Raise) : (s.takeFault r).fd = s.fd := rfl
@[simp] theorem takeFault_de (r : Raise) : (s.takeFault r).de = s.de := rfl
@[simp] theorem takeFault_em (r : Raise) : (s.takeFault r).em = s.em := rfl
@[simp] theorem takeFault_mw (r : Raise) : (s.takeFault r).mw = s.mw := rfl
@[simp] theorem takeFault_fault (r : Raise) : (s.takeFault r).fault = true := rfl
@[simp] theorem takeFault_faultInfo (r : Raise) : (s.takeFault r).faultInfo = some { code := r.code, reason := r.reason, cycle := s.cycle + 1, pc := r.pc, value := r.value } := rfl
@[simp] theorem takeFault_cycle (r : Raise) : (s.takeFault r).cycle = s.cycle + 1 := rfl
@[simp] theorem takeFault_stillActive (r : Raise) : (s.takeFault r).stillActive = false := rfl
@[simp] theorem takeFault_prog (r : Raise) : (s.takeFault r).prog = s.prog := rfl

end Sys2Proof.Machine
end

