-- ==== Sys2Proof/Laws/Pipeline.lean ====
section
/-! SUPPORT. What each sub-step can do, said once: if it answers, one of these cases holds. The proofs about a cycle cite
these instead of unfolding the sub-steps. -/

namespace Sys2Proof.Machine

/-! ### WB -/

/-- WB writes the register file and nothing else (R143). -/
theorem writeback_eq (s : State) : writeback s = { s with regs := nsX1 s } := by
  unfold writeback wbAction nsX1
  cases hv : s.mw.valid <;> cases ho : s.mw.dec.op <;>
    simp [writesReg, mwResult, ho, wbAdd, wbAddi, wbLui, wbLw, wbSw, wbBeq, wbBlt, State.writeReg]

@[simp] theorem writeback_regs (s : State) : (writeback s).regs = nsX1 s := by rw [writeback_eq]
@[simp] theorem writeback_mem (s : State) : (writeback s).mem = s.mem := by rw [writeback_eq]
@[simp] theorem writeback_pc (s : State) : (writeback s).pc = s.pc := by rw [writeback_eq]
@[simp] theorem writeback_fd (s : State) : (writeback s).fd = s.fd := by rw [writeback_eq]
@[simp] theorem writeback_de (s : State) : (writeback s).de = s.de := by rw [writeback_eq]
@[simp] theorem writeback_em (s : State) : (writeback s).em = s.em := by rw [writeback_eq]
@[simp] theorem writeback_mw (s : State) : (writeback s).mw = s.mw := by rw [writeback_eq]
@[simp] theorem writeback_fault (s : State) : (writeback s).fault = s.fault := by rw [writeback_eq]
@[simp] theorem writeback_faultInfo (s : State) : (writeback s).faultInfo = s.faultInfo := by rw [writeback_eq]
@[simp] theorem writeback_cycle (s : State) : (writeback s).cycle = s.cycle := by rw [writeback_eq]
@[simp] theorem writeback_stillActive (s : State) : (writeback s).stillActive = s.stillActive := by rw [writeback_eq]
@[simp] theorem writeback_prog (s : State) : (writeback s).prog = s.prog := by rw [writeback_eq]

/-! ### MEM -/

/-- What MEM can do when it does not raise (R144, R242, R245, R264). -/
theorem memory_cases {s s1 : State} (h : memory s = .ok s1) :
    (s.em.valid = false ∧ s1 = s.clearMW) ∨
    (s.em.valid = true ∧ s.em.dec.op ≠ .lw ∧ s.em.dec.op ≠ .sw ∧ takesBranch s = false ∧ s1 = s.copyToMW) ∨
    (s.em.valid = true ∧ s.em.dec.op = .lw ∧ wordIndex s.em.alu < Config.dmemWords ∧
      s1 = s.copyToMW.setMdata (Memory.read s.mem (wordIndex s.em.alu))) ∨
    (s.em.valid = true ∧ s.em.dec.op = .sw ∧ wordIndex s.em.alu < Config.dmemWords ∧
      s1 = s.copyToMW.writeWord (wordIndex s.em.alu) (s.readReg s.em.dec.rs2)) ∨
    (takesBranch s = true ∧ targetOk (branchTarget s.em.pc s.em.dec.imm) = true ∧
      s1 = (s.copyToMW.setPc (u32 (branchTarget s.em.pc s.em.dec.imm))).flush) := by
  unfold memory at h
  split at h
  · rename_i hv
    unfold memAction at h
    cases ho : s.em.dec.op <;> simp only [copyToMW_em, ho] at h
    case add => cases h; simp [hv, takesBranch, branchTaken, ho]
    case addi => cases h; simp [hv, takesBranch, branchTaken, ho]
    case lui => cases h; simp [hv, takesBranch, branchTaken, ho]
    case lw =>
      by_cases hb : wordIndex s.em.alu < Config.dmemWords <;>
        simp only [memLw, memRead, copyToMW_em, copyToMW_mem, hb, if_true, if_false] at h
      · cases h; simp [hv, hb]
      · cases h
    case sw =>
      by_cases hb : wordIndex s.em.alu < Config.dmemWords <;>
        simp only [memSw, memWrite, copyToMW_em, hb, if_true, if_false] at h
      · cases h; simp [hv, hb, State.readReg]
      · cases h
    case beq =>
      cases ht : beqTaken s.em.alu <;> cases hk : targetOk (branchTarget s.em.pc s.em.dec.imm) <;>
        simp only [memBeq, redirect, copyToMW_em, ht, hk, Bool.false_eq_true, if_true, if_false] at h <;> cases h <;>
        simp [hv, takesBranch, branchTaken, ho, ht]
    case blt =>
      cases ht : bltTaken s.em.alu <;> cases hk : targetOk (branchTarget s.em.pc s.em.dec.imm) <;>
        simp only [memBlt, redirect, copyToMW_em, ht, hk, Bool.false_eq_true, if_true, if_false] at h <;> cases h <;>
        simp [hv, takesBranch, branchTaken, ho, ht]
  · rename_i hv
    cases h
    exact .inl ⟨by simpa using hv, rfl⟩

/-- MEM raises exactly the two Memory faults (R281, R283). -/
theorem memory_error {s : State} {a : Abort} (h : memory s = .error a) :
    (s.em.valid = true ∧ (s.em.dec.op = .lw ∨ s.em.dec.op = .sw) ∧ Config.dmemWords ≤ wordIndex s.em.alu ∧
      a = .raise (boundsError s.em.pc s.em.alu)) ∨
    (takesBranch s = true ∧ targetOk (branchTarget s.em.pc s.em.dec.imm) = false ∧
      a = .raise (targetError s.em.pc (branchTarget s.em.pc s.em.dec.imm))) := by
  unfold memory at h
  split at h
  · rename_i hv
    unfold memAction at h
    cases ho : s.em.dec.op <;> simp only [copyToMW_em, ho] at h
    case add => cases h
    case addi => cases h
    case lui => cases h
    case lw =>
      by_cases hb : wordIndex s.em.alu < Config.dmemWords <;>
        simp only [memLw, memRead, copyToMW_em, copyToMW_mem, hb, if_true, if_false] at h <;> cases h
      simp [hv]; omega
    case sw =>
      by_cases hb : wordIndex s.em.alu < Config.dmemWords <;>
        simp only [memSw, memWrite, copyToMW_em, hb, if_true, if_false] at h <;> cases h
      simp [hv]; omega
    case beq =>
      cases ht : beqTaken s.em.alu <;> cases hk : targetOk (branchTarget s.em.pc s.em.dec.imm) <;>
        simp only [memBeq, redirect, copyToMW_em, ht, hk, Bool.false_eq_true, if_true, if_false] at h <;> cases h
      simp [hv, takesBranch, branchTaken, ho, ht]
    case blt =>
      cases ht : bltTaken s.em.alu <;> cases hk : targetOk (branchTarget s.em.pc s.em.dec.imm) <;>
        simp only [memBlt, redirect, copyToMW_em, ht, hk, Bool.false_eq_true, if_true, if_false] at h <;> cases h
      simp [hv, takesBranch, branchTaken, ho, ht]
  · cases h

/-! ### FWD and EX -/

theorem execute_cases (s : State) :
    (s.de.valid = false ∧ execute s = s.clearEM) ∨ (s.de.valid = true ∧ execute s = s.copyToEM (executeResult s)) := by
  unfold execute
  cases h : s.de.valid <;> simp

/-! ### ID -/

theorem decodeStage_cases {s s1 : State} (h : decodeStage s = .ok s1) :
    (s.fd.valid = false ∧ s1 = s.clearDE) ∨
    (∃ d, s.fd.valid = true ∧ decodeRecord s.fd.raw = .ok d ∧ s1 = s.copyToDE d) := by
  unfold decodeStage at h
  split at h
  · rename_i hv
    split at h
    · rename_i d hd
      cases h; exact .inr ⟨d, hv, hd, rfl⟩
    · cases h
  · rename_i hv
    cases h; exact .inl ⟨by simpa using hv, rfl⟩

theorem decodeStage_error {s : State} {a : Abort} (h : decodeStage s = .error a) :
    ∃ e, s.fd.valid = true ∧ decodeRecord s.fd.raw = .error e ∧ a = decodeAbort s.fd.pc e := by
  unfold decodeStage at h
  split at h
  · rename_i hv
    split at h
    · cases h
    · rename_i e he
      cases h; exact ⟨e, hv, he, rfl⟩
  · cases h

/-! ### STALL_IF -/

theorem peek_cases {port : Raw} {s : State} {nd : Option Decoded} (h : peek port s = .ok nd) :
    (nd = none ∧ decodeRecord port = .error .sentinel) ∨ (∃ d, nd = some d ∧ decodeRecord port = .ok d) := by
  unfold peek at h
  split at h
  · rename_i d hd; cases h; exact .inr ⟨d, rfl, hd⟩
  · rename_i hd; cases h; exact .inl ⟨rfl, hd⟩
  · cases h

theorem peek_error {port : Raw} {s : State} {a : Abort} (h : peek port s = .error a) :
    ∃ e, e ≠ .sentinel ∧ decodeRecord port = .error e ∧ a = decodeAbort s.pc e := by
  unfold peek at h
  split at h
  · cases h
  · cases h
  · rename_i e hne hd
    cases h; exact ⟨e, fun h => hne h, hd, rfl⟩

/-- Stall, fetch of the sentinel, or fetch of an instruction (R153). -/
theorem stallOrFetch_cases {port : Raw} {s s1 : State} {b : Bool} (h : stallOrFetch port s = .ok (s1, b)) :
    (∃ d, decodeRecord port = .ok d ∧ loadUse s.de (some d) = true ∧ s1 = s.insertBubble ∧ b = false) ∨
    (decodeRecord port = .error .sentinel ∧ s1 = s.clearFD ∧ b = true) ∨
    (∃ d, decodeRecord port = .ok d ∧ loadUse s.de (some d) = false ∧ s1 = s.fetch port ∧ b = false) := by
  unfold stallOrFetch at h
  split at h
  · cases h
  · rename_i nd hp
    rcases peek_cases hp with ⟨rfl, hd⟩ | ⟨d, rfl, hd⟩
    · simp only [loadUse] at h
      cases h; exact .inr (.inl ⟨hd, rfl, rfl⟩)
    · split at h
      · rename_i hl
        cases h; exact .inl ⟨d, hd, hl, rfl, rfl⟩
      · rename_i hl
        cases h; exact .inr (.inr ⟨d, hd, by simpa using hl, rfl, rfl⟩)

theorem stallOrFetch_error {port : Raw} {s : State} {a : Abort} (h : stallOrFetch port s = .error a) :
    ∃ e, e ≠ .sentinel ∧ decodeRecord port = .error e ∧ a = decodeAbort s.pc e := by
  unfold stallOrFetch at h
  split at h
  · rename_i hp; cases h; exact peek_error hp
  · split at h
    · cases h
    · split at h <;> cases h

/-- The load-use condition (R200). -/
theorem loadUse_some {de : Latch} {d : Decoded} :
    loadUse de (some d) = true ↔ de.valid = true ∧ de.dec.op = .lw ∧ (de.dec.rd = d.rs1 ∨ de.dec.rd = d.rs2) := by
  simp [loadUse, and_assoc]

/-! ### One cycle -/

/-- The sub-steps before STALL_IF, taken apart (R141). -/
theorem beforeFetch_cases {s s3 : State} (h : beforeFetch s = .ok s3) :
    ∃ s1, memory (writeback s) = .ok s1 ∧ decodeStage (execute (forward s1)) = .ok s3 := by
  unfold beforeFetch at h
  split at h
  · cases h
  · rename_i s1 h1; exact ⟨s1, h1, h⟩

theorem subSteps_cases {port : Raw} {s s4 : State} {b : Bool} (h : subSteps port s = .ok (s4, b)) :
    ∃ s1 s3, memory (writeback s) = .ok s1 ∧ decodeStage (execute (forward s1)) = .ok s3 ∧
      beforeFetch s = .ok s3 ∧ stallOrFetch port s3 = .ok (s4, b) := by
  unfold subSteps at h
  split at h
  · cases h
  · rename_i s3 h3
    obtain ⟨s1, h1, h2⟩ := beforeFetch_cases h3
    exact ⟨s1, s3, h1, h2, h3, h⟩

/-- What a cycle can answer: nothing happened to a halted block, the cycle ended, or it raised a fault (R140). -/
theorem advance_next {port : Raw} {s t : State} (h : advance port s = .next t) :
    (s.fault = true ∧ t = s) ∨
    (s.fault = false ∧ ∃ s4 b, subSteps port s = .ok (s4, b) ∧ t = s4.endCycle b) ∨
    (s.fault = false ∧ ∃ r, subSteps port s = .error (.raise r) ∧ t = s.takeFault r) := by
  unfold advance at h
  split at h
  · rename_i hf; cases h; exact .inl ⟨hf, rfl⟩
  · rename_i hf
    have hf : s.fault = false := by simpa using hf
    split at h
    · rename_i s4 b hs; cases h; exact .inr (.inl ⟨hf, s4, b, hs, rfl⟩)
    · rename_i r hs; cases h; exact .inr (.inr ⟨hf, r, hs, rfl⟩)
    · cases h

theorem advance_not_refused (port : Raw) (s : State) (r : Refusal) : advance port s ≠ .refused r := by
  unfold advance
  split
  · simp
  · split <;> simp

/-- Every instruction's meaning is the cycle with its encoding on the program port. -/
theorem exec_eq_advance (i : Instr) (s : State) : exec i s = advance (encode i) s := by cases i <;> rfl

/-- One step is the cycle with the program source's answer on the program port. -/
theorem step_eq_advance (s : State) : step s = advance (fetchRaw s) s := by
  unfold step
  split
  · rename_i i hi
    rw [exec_eq_advance, (decode_cases hi).1]
  · rfl

end Sys2Proof.Machine
end

