-- ==== Sys2Proof/Laws/Forward.lean ====
section
/-! SUPPORT. The cycle run forward: what each sub-step answers when the state says which case applies, and what a step
then is. The proofs that follow an instruction through the latches chain these. -/

namespace Sys2Proof.Machine

theorem nextLine_eq (a : Word) : nextLine a = a + 4 := by
  apply BitVec.eq_of_toNat_eq
  have h : (nextLine a).toNat = ((Int.ofNat a.toNat + Int.ofNat 4) % ((2 ^ 32 : ℕ) : Int)).toNat := rfl
  have h4 : (a + 4).toNat = (a.toNat + 4) % 2 ^ 32 := BitVec.toNat_add a 4
  rw [h, h4, Int.ofNat_eq_natCast, Int.ofNat_eq_natCast]
  omega

/-- The word index is the address divided by 4 (R74). -/
theorem wordIndex_eq (ea : Word) : wordIndex ea = ea.toNat / 4 := by
  simp [wordIndex, BitVec.toNat_ushiftRight, Nat.shiftRight_eq_div_pow]

theorem wordIndex_lt_iff (ea : Word) : wordIndex ea < Config.dmemWords ↔ ea.toNat < 64 := by
  rw [wordIndex_eq, Config.dmemWords]; omega

theorem runs_zero (s : State) : runs 0 s = .next s := rfl

theorem runs_succ {n : Nat} {s t : State} (h : step s = .next t) : runs (n + 1) s = runs n t := by
  have hs : Sys2Proof.core.step s = .next t := h
  exact (Host.Core.run.eq_2 Sys2Proof.core s n).trans (by rw [hs])

theorem decodeRecord_sentinel {r : Raw} (h : Token.ofCode r.tok = .nop) : decodeRecord r = .error .sentinel := by
  simp [decodeRecord, decode, Raw.select, h]

/-! ### MEM -/

theorem memory_invalid {s : State} (h : s.em.valid = false) : memory s = .ok s.clearMW := by simp [memory, h]

theorem memory_plain {s : State} (h : s.em.valid = true) (h1 : s.em.dec.op ≠ .lw) (h2 : s.em.dec.op ≠ .sw)
    (h3 : takesBranch s = false) : memory s = .ok s.copyToMW := by
  cases ho : s.em.dec.op <;>
    simp_all [memory, memAction, memAdd, memAddi, memLui, memBeq, memBlt, takesBranch, branchTaken]

theorem memory_load {s : State} (h : s.em.valid = true) (h1 : s.em.dec.op = .lw)
    (h2 : wordIndex s.em.alu < Config.dmemWords) :
    memory s = .ok (s.copyToMW.setMdata (Memory.read s.mem (wordIndex s.em.alu))) := by
  simp only [memory, h, if_true, memAction, copyToMW_em, h1, memLw, memRead, copyToMW_mem, h2]

theorem memory_store {s : State} (h : s.em.valid = true) (h1 : s.em.dec.op = .sw)
    (h2 : wordIndex s.em.alu < Config.dmemWords) :
    memory s = .ok (s.copyToMW.writeWord (wordIndex s.em.alu) (s.readReg s.em.dec.rs2)) := by
  simp only [memory, h, if_true, memAction, copyToMW_em, h1, memSw, memWrite, h2]
  rfl

theorem memory_bounds {s : State} (h : s.em.valid = true) (h1 : s.em.dec.op = .lw ∨ s.em.dec.op = .sw)
    (h2 : ¬ wordIndex s.em.alu < Config.dmemWords) :
    memory s = .error (.raise (boundsError s.em.pc s.em.alu)) := by
  rcases h1 with h1 | h1 <;>
    simp only [memory, h, if_true, memAction, copyToMW_em, h1, memLw, memRead, memSw, memWrite, h2, if_false]

theorem memory_taken {s : State} (h : takesBranch s = true)
    (h2 : targetOk (branchTarget s.em.pc s.em.dec.imm) = true) :
    memory s = .ok (s.copyToMW.setPc (u32 (branchTarget s.em.pc s.em.dec.imm))).flush := by
  cases ho : s.em.dec.op <;>
    simp_all [memory, memAction, memBeq, memBlt, takesBranch, branchTaken, redirect]

theorem memory_badTarget {s : State} (h : takesBranch s = true)
    (h2 : targetOk (branchTarget s.em.pc s.em.dec.imm) = false) :
    memory s = .error (.raise (targetError s.em.pc (branchTarget s.em.pc s.em.dec.imm))) := by
  cases ho : s.em.dec.op <;>
    simp_all [memory, memAction, memBeq, memBlt, takesBranch, branchTaken, redirect]

/-! ### EX and ID -/

theorem execute_valid {s : State} (h : s.de.valid = true) : execute s = s.copyToEM (executeResult s) := by
  simp [execute, h]

theorem execute_invalid {s : State} (h : s.de.valid = false) : execute s = s.clearEM := by simp [execute, h]

theorem decodeStage_valid {s : State} {d : Decoded} (h : s.fd.valid = true) (hd : decodeRecord s.fd.raw = .ok d) :
    decodeStage s = .ok (s.copyToDE d) := by simp [decodeStage, h, hd]

theorem decodeStage_invalid {s : State} (h : s.fd.valid = false) : decodeStage s = .ok s.clearDE := by
  simp [decodeStage, h]

/-! ### A step -/

theorem beforeFetch_eq {s s1 : State} (h1 : memory (writeback s) = .ok s1) :
    beforeFetch s = decodeStage (execute (forward s1)) := by simp [beforeFetch, h1]

theorem fetchRaw_eq {s s1 : State} (h1 : memory (writeback s) = .ok s1) : fetchRaw s = s.progAt s1.pc := by
  simp [fetchRaw, fetchAddr, h1]

theorem advance_sentinel {port : Raw} {s s3 : State} (hf : s.fault = false) (h3 : beforeFetch s = .ok s3)
    (hd : decodeRecord port = .error .sentinel) : advance port s = .next (s3.clearFD.endCycle true) := by
  simp [advance, hf, subSteps, h3, stallOrFetch, peek, hd, loadUse]

theorem advance_fetch {port : Raw} {s s3 : State} {d : Decoded} (hf : s.fault = false) (h3 : beforeFetch s = .ok s3)
    (hd : decodeRecord port = .ok d) (hl : loadUse s3.de (some d) = false) :
    advance port s = .next ((s3.fetch port).endCycle false) := by
  simp [advance, hf, subSteps, h3, stallOrFetch, peek, hd, hl]

theorem advance_stall {port : Raw} {s s3 : State} {d : Decoded} (hf : s.fault = false) (h3 : beforeFetch s = .ok s3)
    (hd : decodeRecord port = .ok d) (hl : loadUse s3.de (some d) = true) :
    advance port s = .next (s3.insertBubble.endCycle false) := by
  simp [advance, hf, subSteps, h3, stallOrFetch, peek, hd, hl]

theorem advance_raise_memory {port : Raw} {s : State} {r : Raise} (hf : s.fault = false)
    (h1 : memory (writeback s) = .error (.raise r)) : advance port s = .next (s.takeFault r) := by
  simp [advance, hf, subSteps, beforeFetch, h1]

theorem advance_raise_peek {port : Raw} {s s3 : State} {r : Raise} (hf : s.fault = false) (h3 : beforeFetch s = .ok s3)
    (hp : peek port s3 = .error (.raise r)) : advance port s = .next (s.takeFault r) := by
  simp [advance, hf, subSteps, h3, stallOrFetch, hp]

end Sys2Proof.Machine
end

