-- ==== Sys2Proof/Laws/Ops.lean ====
section
/-! SUPPORT. The shared operations, each with one lemma that says everything it can do. -/

namespace Sys2Proof.Machine

/-! ### Registers -/

/-- A register read after a write, `x0` like any other (R31). -/
theorem readReg_writeReg (s : State) (r r' : RegIx) (v : Word) :
    (s.writeReg r v).readReg r' = if r' = r then v else s.readReg r' := by
  by_cases h : r' = r
  · subst h; simp [State.readReg]
  · have hn : r.toNat ≠ r'.toNat := fun e => h (BitVec.eq_of_toNat_eq e.symm)
    simp [State.readReg, hn, h]

/-! ### The word accesses (R74) -/

theorem memRead_cases (ipc ea : Word) (s : State) :
    (wordIndex ea < Config.dmemWords ∧ memRead ipc ea s = .ok (Memory.read s.mem (wordIndex ea))) ∨
    (Config.dmemWords ≤ wordIndex ea ∧ memRead ipc ea s = .error (.raise (boundsError ipc ea))) := by
  by_cases h : wordIndex ea < Config.dmemWords
  · exact .inl ⟨h, by simp only [memRead, h, if_true]⟩
  · exact .inr ⟨Nat.le_of_not_lt h, by simp only [memRead, h, if_false]⟩

theorem memWrite_cases (ipc ea v : Word) (s : State) :
    (wordIndex ea < Config.dmemWords ∧ memWrite ipc ea v s = .ok (s.writeWord (wordIndex ea) v)) ∨
    (Config.dmemWords ≤ wordIndex ea ∧ memWrite ipc ea v s = .error (.raise (boundsError ipc ea))) := by
  by_cases h : wordIndex ea < Config.dmemWords
  · exact .inl ⟨h, by simp only [memWrite, h, if_true]⟩
  · exact .inr ⟨Nat.le_of_not_lt h, by simp only [memWrite, h, if_false]⟩

/-! ### Branches -/

theorem redirect_cases (s : State) :
    (targetOk (branchTarget s.em.pc s.em.dec.imm) = true ∧
      redirect s = .ok ((s.setPc (u32 (branchTarget s.em.pc s.em.dec.imm))).flush)) ∨
    (targetOk (branchTarget s.em.pc s.em.dec.imm) = false ∧
      redirect s = .error (.raise (targetError s.em.pc (branchTarget s.em.pc s.em.dec.imm)))) := by
  cases h : targetOk (branchTarget s.em.pc s.em.dec.imm) <;> simp [redirect, h]

/-- A fetchable target is in range and a multiple of 4 (R265). -/
theorem targetOk_iff (t : Int) : targetOk t = true ↔ 0 ≤ t ∧ t < 2 ^ 32 ∧ t % 4 = 0 := by
  simp [targetOk, and_assoc]

/-! ### Forwarding (R190, R192) -/

theorem fwdSelect_cases (mw em : Latch) (src : RegIx) :
    (mwForwards mw src = true ∧ fwdSelect mw em src = { sel := .fromMW, val := mwResult mw }) ∨
    (mwForwards mw src = false ∧ emForwards em src = true ∧ fwdSelect mw em src = { sel := .fromEM, val := em.alu }) ∨
    (mwForwards mw src = false ∧ emForwards em src = false ∧ fwdSelect mw em src = FwdSlot.none) := by
  cases h1 : mwForwards mw src <;> cases h2 : emForwards em src <;> simp [fwdSelect, h1, h2]

/-- Register 0 is never forwarded (R31, R194). -/
theorem fwdSelect_zero (mw em : Latch) : fwdSelect mw em 0 = FwdSlot.none := by
  have h1 : mwForwards mw 0 = false := by simp [mwForwards]
  have h2 : emForwards em 0 = false := by simp [emForwards]
  simp only [fwdSelect, h1, h2, Bool.false_eq_true, if_false]

@[simp] theorem operand_none (r : RegIx) (s : State) : operand FwdSlot.none r s = s.readReg r := rfl
@[simp] theorem operand_fromMW (v : Word) (r : RegIx) (s : State) :
    operand { sel := .fromMW, val := v } r s = v := rfl
@[simp] theorem operand_fromEM (v : Word) (r : RegIx) (s : State) :
    operand { sel := .fromEM, val := v } r s = v := rfl

/-! ### The program source (R80) -/

theorem getD_setLine (p : List Raw) (n k : Nat) (r : Raw) :
    (setLine p n r).getD k Raw.sentinel = if k = n then r else p.getD k Raw.sentinel := by
  induction p generalizing n k with
  | nil =>
    induction n generalizing k with
    | zero => cases k <;> simp [setLine]
    | succ n ih =>
      cases k with
      | zero => simp [setLine]
      | succ k => simpa [setLine] using ih k
  | cons q p ih =>
    cases n <;> cases k <;> simp [setLine]
    exact ih _ _

/-- The line a stored word is read from, and every other line (R80). -/
theorem progAt_withLine (s : State) (n : Nat) (r : Raw) (a : Word) :
    (s.withLine n r).progAt a = if a.toNat / Config.ilen = n then r else s.progAt a :=
  getD_setLine s.prog n (a.toNat / Config.ilen) r

/-! ### Boot (R325) -/

theorem boot_cases (source : Option (List Raw)) :
    (source = none ∧ State.boot source = .refused .programUnreadable) ∨
    (∃ p, source = some p ∧ p.length < Config.progLimit ∧ State.boot source = .next { State.reset with prog := p }) ∨
    (∃ p, source = some p ∧ Config.progLimit ≤ p.length ∧ State.boot source = .refused .programTooLong) := by
  cases source with
  | none => exact .inl ⟨rfl, rfl⟩
  | some p =>
    by_cases h : p.length < Config.progLimit
    · exact .inr (.inl ⟨p, rfl, h, by simp only [State.boot, h, if_true]⟩)
    · exact .inr (.inr ⟨p, rfl, Nat.le_of_not_lt h, by simp only [State.boot, h, if_false]⟩)

end Sys2Proof.Machine
end

