-- ==== Sys2Proof/Laws/Alone.lean ====
section
/-! SUPPORT. One instruction alone in the block, followed by the sentinel: what a step is while it stands in FD, in DE, in
EM (an instruction with no memory action) and in MW. -/

namespace Sys2Proof.Machine

theorem sentinelAt_of_prog_eq {s t : State} {a : Word} (h : SentinelAt s a) (hp : t.prog = s.prog) : SentinelAt t a := by
  simpa [SentinelAt, State.progAt, hp] using h

theorem step_alone_in_FD {s : State} {d : Decoded} (hf : s.fault = false) (h1 : s.fd.valid = true)
    (h2 : s.de.valid = false) (h3 : s.em.valid = false) (h4 : s.mw.valid = false)
    (hd : decodeRecord s.fd.raw = .ok d) (hs : SentinelAt s s.pc) :
    ∃ t, step s = .next t ∧ t.regs = s.regs ∧ t.mem = s.mem ∧ t.pc = s.pc ∧ t.prog = s.prog ∧ t.fault = false ∧
      t.faultInfo = s.faultInfo ∧ t.cycle = s.cycle + 1 ∧ t.fd.valid = false ∧ t.de.valid = true ∧
      t.de.raw = s.fd.raw ∧ t.de.dec = d ∧ t.de.pc = s.fd.pc ∧ t.em.valid = false ∧ t.mw.valid = false := by
  have hm : memory (writeback s) = .ok (writeback s).clearMW := memory_invalid (by simpa using h3)
  have hb := beforeFetch_eq hm
  rw [execute_invalid (by simpa [forward] using h2),
    decodeStage_valid (d := d) (by simpa [forward] using h1) (by simpa [forward] using hd)] at hb
  have hfr : fetchRaw s = s.progAt s.pc := by rw [fetchRaw_eq hm]; simp
  refine ⟨_, (step_eq_advance s).trans (advance_sentinel hf hb (by rw [hfr]; exact decodeRecord_sentinel hs)), ?_⟩
  simp [forward, hf, nsX1, h4]

theorem step_alone_in_DE {s : State} (hf : s.fault = false) (h1 : s.fd.valid = false) (h2 : s.de.valid = true)
    (h3 : s.em.valid = false) (h4 : s.mw.valid = false) (hs : SentinelAt s s.pc) :
    ∃ t, step s = .next t ∧ t.regs = s.regs ∧ t.mem = s.mem ∧ t.pc = s.pc ∧ t.prog = s.prog ∧ t.fault = false ∧
      t.faultInfo = s.faultInfo ∧ t.cycle = s.cycle + 1 ∧ t.fd.valid = false ∧ t.de.valid = false ∧
      t.em.valid = true ∧ t.em.raw = s.de.raw ∧ t.em.dec = s.de.dec ∧ t.em.pc = s.de.pc ∧ t.mw.valid = false ∧
      t.em.alu = alu s.de.dec.op (s.readReg s.de.dec.rs1) (s.readReg s.de.dec.rs2) s.de.dec.imm := by
  have hm : memory (writeback s) = .ok (writeback s).clearMW := memory_invalid (by simpa using h3)
  have hb := beforeFetch_eq hm
  rw [execute_valid (by simpa [forward] using h2), decodeStage_invalid (by simpa [forward] using h1)] at hb
  have hfr : fetchRaw s = s.progAt s.pc := by rw [fetchRaw_eq hm]; simp
  refine ⟨_, (step_eq_advance s).trans (advance_sentinel hf hb (by rw [hfr]; exact decodeRecord_sentinel hs)), ?_⟩
  simp [forward, hf, nsX1, h4, executeResult, fwdSelect, mwForwards, emForwards, h3, State.readReg]

theorem step_alone_in_EM {s : State} (hf : s.fault = false) (h1 : s.fd.valid = false) (h2 : s.de.valid = false)
    (h3 : s.em.valid = true) (h4 : s.mw.valid = false) (ho : s.em.dec.op ≠ .lw) (ho2 : s.em.dec.op ≠ .sw)
    (hb : takesBranch s = false) (hs : SentinelAt s s.pc) :
    ∃ t, step s = .next t ∧ t.regs = s.regs ∧ t.mem = s.mem ∧ t.pc = s.pc ∧ t.prog = s.prog ∧ t.fault = false ∧
      t.faultInfo = s.faultInfo ∧ t.cycle = s.cycle + 1 ∧ t.fd.valid = false ∧ t.de.valid = false ∧
      t.em.valid = false ∧ t.mw.valid = true ∧ t.mw.dec = s.em.dec ∧ t.mw.alu = s.em.alu := by
  have hm : memory (writeback s) = .ok (writeback s).copyToMW :=
    memory_plain (by simpa using h3) (by simpa using ho) (by simpa using ho2) (by simpa [takesBranch] using hb)
  have hb := beforeFetch_eq hm
  rw [execute_invalid (by simpa [forward] using h2), decodeStage_invalid (by simpa [forward] using h1)] at hb
  have hfr : fetchRaw s = s.progAt s.pc := by rw [fetchRaw_eq hm]; simp
  refine ⟨_, (step_eq_advance s).trans (advance_sentinel hf hb (by rw [hfr]; exact decodeRecord_sentinel hs)), ?_⟩
  simp [forward, hf, nsX1, h4, h2]

theorem step_alone_in_MW {s : State} (hf : s.fault = false) (h1 : s.fd.valid = false) (h2 : s.de.valid = false)
    (h3 : s.em.valid = false) (hs : SentinelAt s s.pc) :
    ∃ t, step s = .next t ∧ t.regs = nsX1 s ∧ t.mem = s.mem ∧ t.pc = s.pc ∧ t.prog = s.prog ∧ Drained t ∧
      t.stillActive = false ∧ t.faultInfo = s.faultInfo ∧ t.cycle = s.cycle + 1 := by
  have hm : memory (writeback s) = .ok (writeback s).clearMW := memory_invalid (by simpa using h3)
  have hb := beforeFetch_eq hm
  rw [execute_invalid (by simpa [forward] using h2), decodeStage_invalid (by simpa [forward] using h1)] at hb
  have hfr : fetchRaw s = s.progAt s.pc := by rw [fetchRaw_eq hm]; simp
  refine ⟨_, (step_eq_advance s).trans (advance_sentinel hf hb (by rw [hfr]; exact decodeRecord_sentinel hs)), ?_⟩
  simp [forward, hf, h2, Drained]

end Sys2Proof.Machine
end

