-- ==== Sys2Proof/Laws/PerInstr.lean ====
section
/-! SUPPORT. Families of statements made per instruction. -/

namespace Sys2Proof.Laws.TokenSelects

/-- The token of an instruction's encoding selects that instruction and no other, and names its opcode (R102, R118). -/
def Statement (i : Instr) : Prop :=
  (encode i).select = .ok i ∧ (encode i).tok = i.record.op.tokenCode ∧
    (encode i).tok.toNat = i.record.op.code.toNat

theorem add (rd rs1 rs2 : Field) : Statement (.add rd rs1 rs2) := ⟨rfl, rfl, rfl⟩
theorem addi (rd rs1 imm : Field) : Statement (.addi rd rs1 imm) := ⟨rfl, rfl, rfl⟩
theorem lw (rd imm rs1 : Field) : Statement (.lw rd imm rs1) := ⟨rfl, rfl, rfl⟩
theorem sw (rs2 imm rs1 : Field) : Statement (.sw rs2 imm rs1) := ⟨rfl, rfl, rfl⟩
theorem beq (rs1 rs2 imm : Field) : Statement (.beq rs1 rs2 imm) := ⟨rfl, rfl, rfl⟩
theorem blt (rs1 rs2 imm : Field) : Statement (.blt rs1 rs2 imm) := ⟨rfl, rfl, rfl⟩
theorem lui (rd imm unused : Field) : Statement (.lui rd imm unused) := ⟨rfl, rfl, rfl⟩

end Sys2Proof.Laws.TokenSelects
end

