-- ==== Sys2Proof/Tests/Slice0.lean ====
section
/-! SUPPORT. The model's own tests: the well-formedness smoke tests, decoding of words written out from the spec, one
cycle of every instruction with the results of spec/95_test_vectors.md, and for every statement with hypotheses a witness
that meets them. -/

namespace Sys2Proof.Tests

open Sys2Proof.Machine

/-! ### Helpers -/

def line (tok : BitVec 4) (f0 f1 f2 : Int) : Raw := { tok := tok, f0 := u32 f0, f1 := u32 f1, f2 := u32 f2 }

/-- The reset state with a program and a few registers preloaded (R325, R326). -/
def boot (p : List Raw) (regs : List (RegIx × Word)) : State :=
  regs.foldl (fun s x => s.preloadReg x.1 x.2) { State.reset with prog := p }

/-- A latch holding the line `r`, decoded, from address `a`, with ALU result `v`. -/
def holds (r : Raw) (a v : Word) : Latch :=
  match decodeRecord r with
  | .ok d => { Latch.empty with valid := true, raw := r, dec := d, pc := a, alu := v }
  | .error _ => Latch.empty

def nextAnd (o : Host.Outcome State Fault Refusal) (p : State → Bool) : Bool :=
  match o with
  | .next t => p t
  | .fault _ => false
  | .refused _ => false

theorem of_nextAnd {o : Host.Outcome State Fault Refusal} {p : State → Bool} (h : nextAnd o p = true) :
    ∃ t, o = .next t ∧ p t = true := by
  cases o with
  | next t => exact ⟨t, rfl, h⟩
  | fault f => cases h
  | refused r => cases h

/-- The state after `n` cycles, or `s` itself if the run stopped. -/
def after (n : Nat) (s : State) : State :=
  match runs n s with
  | .next t => t
  | .fault _ => s
  | .refused _ => s

/-! ### Well-formedness: one ill-formed term for each register-role check (R105, R112), at -1 and at 32 -/

theorem test_wf_add_rd : WellFormed (.add 32 0 0) = false := by decide
theorem test_wf_add_rs1 : WellFormed (.add 0 (-1) 0) = false := by decide
theorem test_wf_add_rs2 : WellFormed (.add 0 0 32) = false := by decide
theorem test_wf_addi_rd : WellFormed (.addi (-1) 0 0) = false := by decide
theorem test_wf_addi_rs1 : WellFormed (.addi 0 32 0) = false := by decide
theorem test_wf_lw_rd : WellFormed (.lw 32 0 0) = false := by decide
theorem test_wf_lw_rs1 : WellFormed (.lw 0 0 (-1)) = false := by decide
theorem test_wf_sw_rs2 : WellFormed (.sw 40 0 1) = false := by decide
theorem test_wf_sw_rs1 : WellFormed (.sw 0 0 32) = false := by decide
theorem test_wf_beq_rs1 : WellFormed (.beq 32 0 0) = false := by decide
theorem test_wf_beq_rs2 : WellFormed (.beq 0 (-1) 0) = false := by decide
theorem test_wf_blt_rs1 : WellFormed (.blt (-1) 0 0) = false := by decide
theorem test_wf_blt_rs2 : WellFormed (.blt 0 32 0) = false := by decide
theorem test_wf_lui_rd : WellFormed (.lui 32 0 0) = false := by decide

/-- The largest register number and unchecked immediates are accepted (R111, R113). -/
theorem test_wf_accepts : ∀ i ∈ [Instr.add 31 31 31, .addi 31 0 40, .lw 31 (-4) 31, .sw 31 64 31, .beq 31 31 (-8),
    .blt 31 31 6, .lui 31 (-1) (-99)], WellFormed i = true := by decide

/-! ### Decoding: words from spec/95_test_vectors.md sections 1.2 and 2.1 and 30_encoding.md R102, R105 -/

theorem test_decode_add : decode (Raw.unpack 0x0000000030000000100000002) = .ok (.add 3 1 2) := by decide
theorem test_decode_addi : decode (Raw.unpack 0x10000000200000001FFFFFFF6) = .ok (.addi 2 1 (-10)) := by decide
theorem test_decode_lw : decode (Raw.unpack 0x2000000030000000800000002) = .ok (.lw 3 8 2) := by decide
theorem test_decode_sw : decode (Raw.unpack 0x300000001FFFFFFFC00000002) = .ok (.sw 1 (-4) 2) := by decide
theorem test_decode_beq : decode (Raw.unpack 0x40000000100000002FFFFFFF8) = .ok (.beq 1 2 (-8)) := by decide
theorem test_decode_blt : decode (Raw.unpack 0x5000000020000000100000008) = .ok (.blt 2 1 8) := by decide
theorem test_decode_lui : decode (Raw.unpack 0x6000000010008000000000000) = .ok (.lui 1 524288 0) := by decide

/-- The decoded records of section 1.2's table, unpopulated fields 0 (R106). -/
theorem test_decode_records :
    decodeRecord (Raw.unpack 0x300000001FFFFFFFC00000002) = .ok { op := .sw, rd := 0, rs1 := 2, rs2 := 1, imm := -4 } ∧
    decodeRecord (Raw.unpack 0x5000000020000000100000008) = .ok { op := .blt, rd := 0, rs1 := 2, rs2 := 1, imm := 8 } ∧
    decodeRecord (Raw.unpack 0x6000000070000000500000009) = .ok { op := .lui, rd := 7, rs1 := 0, rs2 := 0, imm := 5 } := by
  decide

/-- Section 2.1's rejections, and the sentinel of R102. -/
theorem test_decode_rejects :
    decode (Raw.unpack 0xF000000630000000000000000) = .error (.unknownMnemonic 15) ∧
    decode (Raw.unpack 0x8000000000000000000000000) = .error (.unknownMnemonic 8) ∧
    decode (Raw.unpack 0x1000000200000000000000001) = .error (.registerOutOfRange 32) ∧
    decode (Raw.unpack 0x3000000280000000000000001) = .error (.registerOutOfRange 40) ∧
    decode (Raw.unpack 0x000000001FFFFFFFF00000020) = .error (.registerOutOfRange (-1)) ∧
    decode (Raw.unpack 0x7000000000000000000000000) = .error .sentinel := by decide

/-- R117's encoder against section 1.2: the unused position comes back as 0. -/
theorem test_reencode_lui :
    ({ op := .lui, rd := 7, rs1 := 0, rs2 := 0, imm := 5 } : Decoded).encode = line 6 7 5 0 := by decide

theorem test_encode_word : encodeWord (.addi 2 1 (-10)) = 0x10000000200000001FFFFFFF6 := by decide

/-- A table word with a bit above the packed word is refused (log entry 6). -/
theorem test_table_word : decodeTableWord 104 0x110000000200000001FFFFFFF6 = none := by decide

/-- The program line format (R101, R115): an absent operand is 0, a wide one or a fourth one is refused. -/
theorem test_line_format :
    Raw.ofLine 1 [1, 0] = .ok (line 1 1 0 0) ∧ Raw.ofLine 1 [1, 0, 2 ^ 31] = .error .operandTooWide ∧
    Raw.ofLine 1 [1, 0, -(2 ^ 31)] = .ok (line 1 1 0 (-(2 ^ 31))) ∧
    Raw.ofLine 1 [1, 0, 0, 0] = .error .tooManyOperands := by decide

/-! ### One cycle of each instruction, results from sections 2.2 to 2.4 -/

/-- Section 2.2: ADD wraps, seen in its EX cycle. -/
theorem test_add_wraps :
    nextAnd (step { boot [] [(1, 0xFFFFFFFF), (2, 1)] with de := holds (line 0 3 1 2) 0 0 })
      (fun t => t.em.valid && decide (t.em.alu = 0)) = true := by decide

/-- R32: ADD writes its `rd`, `x0` included, in its WB cycle. -/
theorem test_add_writes_x0 :
    nextAnd (step { boot [] [] with mw := holds (line 0 0 1 2) 0 7 }) (fun t => decide (t.readReg 0 = 7)) = true := by
  decide

/-- Section 2.2: ADDI of -10 to 5. -/
theorem test_addi_negative :
    nextAnd (step { boot [] [(1, 5)] with de := holds (line 1 2 1 (-10)) 0 0 })
      (fun t => decide (t.em.alu = 0xFFFFFFFB)) = true := by decide

/-- R190 rule 1: the result of the instruction ahead is forwarded, not the old register. -/
theorem test_addi_forwarded :
    nextAnd (step { boot [] [(1, 9)] with de := holds (line 1 2 1 10) 4 0, em := holds (line 1 1 0 5) 0 5 })
      (fun t => decide (t.em.alu = 15)) = true := by decide

/-- Section 2.2: LUI discards the high bits. -/
theorem test_lui_discards :
    nextAnd (step { boot [] [] with de := holds (line 6 1 1048576 0) 0 0 })
      (fun t => t.em.valid && decide (t.em.alu = 0)) = true := by decide

/-- Section 2.2: LUI of -1. -/
theorem test_lui_minus_one :
    nextAnd (step { boot [] [] with de := holds (line 6 1 (-1) 0) 0 0 })
      (fun t => decide (t.em.alu = 0xFFFFF000)) = true := by decide

/-- Section 2.3: the low two address bits are ignored, word 15 at address 63. -/
theorem test_lw_word15 :
    nextAnd (step { (boot [] []).preloadWord 15 0x2A with em := holds (line 2 1 63 0) 0 63 })
      (fun t => decide (t.mw.mdata = 0x2A) && !t.fault) = true := by decide

/-- Section 2.3: address 64 is out of range. -/
theorem test_lw_bounds :
    nextAnd (step { boot [] [] with em := holds (line 2 1 64 0) 4 64 })
      (fun t => t.fault && decide (t.faultInfo =
        some { code := .memoryBounds, reason := .none, cycle := 1, pc := 4, value := 64 })) = true := by decide

/-- R245: the store data is read in MEM after the same cycle's WB. -/
theorem test_sw_after_wb :
    nextAnd (step { boot [] [] with em := holds (line 3 1 4 0) 4 4, mw := holds (line 1 1 0 9) 0 9 })
      (fun t => decide (t.mem = [(1, 9)])) = true := by decide

/-- Section 2.3: `SW 0 -4 0` has the effective address 0xFFFFFFFC. -/
theorem test_sw_wraps_high :
    nextAnd (step { boot [] [] with em := holds (line 3 0 (-4) 0) 0 0xFFFFFFFC })
      (fun t => decide (t.faultInfo =
        some { code := .memoryBounds, reason := .none, cycle := 1, pc := 0, value := 0xFFFFFFFC })) = true := by decide

/-- Section 1.5: a taken BEQ at 0 redirects to 12, flushes, and line 3 is fetched in the same cycle. -/
theorem test_beq_taken :
    nextAnd (step { boot [line 4 0 0 12, line 1 1 0 1, line 1 2 0 2, line 1 3 0 3] [] with
        pc := 12, fd := holds (line 1 2 0 2) 8 0, de := holds (line 1 1 0 1) 4 0, em := holds (line 4 0 0 12) 0 0 })
      (fun t => decide (t.pc = 16) && decide (t.fd.pc = 12) && t.fd.valid && !t.de.valid && !t.em.valid && t.mw.valid)
      = true := by decide

/-- Section 2.4: a target that is no multiple of 4. -/
theorem test_beq_target :
    nextAnd (step { boot [] [] with em := holds (line 4 0 0 6) 0 0 })
      (fun t => decide (t.faultInfo =
        some { code := .branchTarget, reason := .none, cycle := 1, pc := 0, value := 6 })) = true := by decide

/-- Section 2.4: 7FFFFFFF against FFFFFFFF overflows, and BLT is taken. -/
theorem test_blt_overflow :
    nextAnd (step { boot [] [(1, 0x7FFFFFFF), (2, 0xFFFFFFFF)] with de := holds (line 5 1 2 8) 0 0 })
      (fun t => decide (t.em.alu = 0x80000000) && takesBranch t) = true := by decide

/-- Section 2.4: 80000000 against 1 overflows, and BLT is not taken. -/
theorem test_blt_overflow_not_taken :
    nextAnd (step { boot [] [(1, 0x80000000), (2, 1)] with de := holds (line 5 1 2 8) 0 0 })
      (fun t => decide (t.em.alu = 0x7FFFFFFF) && !takesBranch t) = true := by decide

/-! ### Reset and the host's edge -/

theorem test_reset_mem_wf : Memory.wf State.reset.mem = true := by decide

/-- R326, R47: writing 0 to a preloaded word removes its entry, so equal memories are equal lists. -/
theorem test_mem_canonical : ((State.reset.preloadWord 3 5).preloadWord 3 0).mem = State.reset.mem := by decide

theorem test_fetch_word :
    nextAnd (step (State.reset.withFetchWord 104 0x10000000200000001FFFFFFF6))
      (fun t => decide (t.fd.raw = line 1 2 1 (-10)) && t.fd.valid) = true := by decide

/-- R300, R301: the IF stage reports FD. -/
theorem test_observe :
    ((after 1 (boot [line 1 1 0 5] [])).observe none).stageIF = some { op := .addi, rd := 1, rs1 := 0, rs2 := 0, imm := 5 } := by
  decide

/-- R163, R333: the driver stops at the cap with the block still active. -/
theorem test_drive_cap :
    nextAnd (drive 3 (boot [line 1 1 0 5] [])) (fun t => t.stillActive && decide (t.cycle = 3)) = true := by decide

/-! ### Witnesses: for every statement with hypotheses, concrete states and operands that meet them -/

theorem quiet_of {s : State} {p : State → Bool} (hf : s.fault = false)
    (h : nextAnd (step s) (fun t => !t.fault && p t) = true) : ∃ t, QuietCycle s t ∧ p t = true := by
  obtain ⟨t, h1, h2⟩ := of_nextAnd h
  simp only [Bool.and_eq_true, Bool.not_eq_true'] at h2
  exact ⟨t, ⟨.inl h1, hf, h2.1⟩, h2.2⟩

theorem eq_after {n : Nat} {s t : State} (h : runs n s = .next t) : t = after n s := by simp [after, h]

/-- The block alone with EM holding `r` from address `a`, its ALU result `v`. -/
def inEM (r : Raw) (a v : Word) (p : List Raw) : State := { boot p [] with em := holds r a v }

/-- Program F4 of section 3: a LW and its dependent, which livelock. -/
def f4 : State := boot [line 2 1 0 2, line 0 3 1 4] [(2, 8), (4, 1)]

theorem witness_DecodeEncodeRoundTrip : WellFormed (.lui 31 (-1) (-99)) = true ∧ WellFormed (.add 0 31 0) = true := by
  decide

/-- O2 and O3, a raw instruction for each row; LUI with and without its unused field. -/
theorem witness_decodeRecord : ∀ r ∈ [line 0 31 0 31, line 1 31 0 (-1), line 2 31 (-4) 0, line 3 0 64 31, line 4 0 31 6,
    line 5 31 0 (-8), line 6 31 5 0, line 6 0 (-1) (-99)], (decodeRecord r).toOption.isSome = true := by decide

/-- O4, each kind of rejection at its boundary. -/
theorem witness_DecodeRejectsExactlyTheIllegal :
    decodeRecord (line 7 0 0 0) = .error .sentinel ∧ decodeRecord (line 8 0 0 0) = .error (.unknownMnemonic 8) ∧
    decodeRecord (line 15 0 0 0) = .error (.unknownMnemonic 15) ∧
    decodeRecord (line 0 31 32 (-1)) = .error (.registerOutOfRange 32) ∧
    decodeRecord (line 0 0 (-1) 32) = .error (.registerOutOfRange (-1)) := by decide

theorem witness_StepRunsTheDecodedInstruction :
    takesBranch f4 = false ∧ decode (fetchRaw f4) = .ok (.lw 1 0 2) ∧
    (let s := inEM (line 4 0 0 4) 0 0 [line 0 0 0 0, line 1 1 0 1]
     takesBranch s = true ∧ targetOk (branchTarget s.em.pc s.em.dec.imm) = true ∧ decode (fetchRaw s) = .ok (.addi 1 0 1)) := by
  decide

theorem witness_FetchWordIsRunNext : decodeTableWord 104 0x6000000010008000000000000 = some (.lui 1 524288 0) := by
  decide

/-- O8, O30 and the statements of one instruction alone: the block after reset is drained. -/
theorem witness_Drained : Drained State.reset ∧ Drained f4 := by decide

theorem witness_ProgramSourceIsReadOnly : (∃ t, CycleTo f4 t) ∧ f4.prog.length ≤ (8 : Word).toNat / 4 := by
  refine ⟨?_, by decide⟩
  obtain ⟨t, h, -⟩ := quiet_of (s := f4) (p := fun _ => true) (by decide) (by decide)
  exact ⟨t, h.1⟩

/-- O10: a stall, a sentinel and a fetch, and a fetch at the target of a taken branch. -/
theorem witness_PcChangesInThreeWays :
    (∀ s ∈ [after 1 f4, State.reset, f4, inEM (line 4 0 0 0) 0 0 [line 0 0 0 0]],
      s.fault = false ∧ nextAnd (step s) (fun t => !t.fault) = true) ∧
    stalls (after 1 f4) = true ∧ Token.ofCode (fetchRaw State.reset).tok = .nop ∧
    stalls f4 = false ∧ Token.ofCode (fetchRaw f4).tok ≠ .nop ∧
    takesBranch (inEM (line 4 0 0 0) 0 0 [line 0 0 0 0]) = true := by decide

/-- O11, each clause: ADD, ADDI, LUI, LW, SW, BEQ, BLT and nothing in MW. -/
theorem witness_WritebackWritesOneRegister :
    ∀ l ∈ [holds (line 0 0 1 2) 0 7, holds (line 1 31 0 7) 0 7, holds (line 6 1 1 0) 0 4096, holds (line 2 1 0 0) 0 0,
      holds (line 3 1 0 0) 0 0, holds (line 4 1 0 0) 0 1, holds (line 5 1 0 0) 0 1, Latch.empty],
      nextAnd (step { State.reset with mw := l }) (fun t => !t.fault) = true := by decide

/-- O12: a SW at addresses 0 and 63, another instruction and nothing in EM. -/
theorem witness_MemoryChangesOnlyByTheStore :
    Memory.wf State.reset.mem = true ∧
    ∀ s ∈ [inEM (line 3 1 0 0) 0 0 [], inEM (line 3 1 63 0) 0 63 [], inEM (line 0 0 0 0) 0 0 [], State.reset],
      nextAnd (step s) (fun t => !t.fault) = true := by decide

/-- O13: a LW at addresses 0 and 63, another instruction and nothing in EM. -/
theorem witness_MemoryStageFillsMW :
    ∀ s ∈ [inEM (line 2 1 0 0) 0 0 [], inEM (line 2 1 63 0) 0 63 [], inEM (line 3 1 0 0) 0 0 [], State.reset],
      nextAnd (step s) (fun t => !t.fault) = true := by decide

/-- O14: a cycle in which rule 2's own condition holds. -/
theorem witness_ForwardingRuleTwoNeverSelected :
    (match memory (writeback (inEM (line 1 1 0 5) 0 5 [])) with
      | .ok s1 => emForwards s1.em 1
      | .error _ => false) = true ∧
    nextAnd (step (inEM (line 1 1 0 5) 0 5 [])) (fun t => !t.fault) = true := by decide

/-- O15: every opcode in DE, behind an ADDI whose result it reads; then behind a taken branch; then nothing in DE. -/
theorem witness_ExecuteComputesIntoEM :
    (∀ r ∈ [line 0 3 1 1, line 1 3 1 (-1), line 2 3 0 1, line 3 1 0 1, line 4 1 1 8, line 5 1 0 8, line 6 3 (-1) 0],
      let s := { inEM (line 1 1 0 5) 0 5 [] with de := holds r 4 0 }
      s.de.valid = true ∧ takesBranch s = false ∧ nextAnd (step s) (fun t => !t.fault) = true) ∧
    takesBranch { inEM (line 4 0 0 8) 0 0 [] with de := holds (line 0 0 0 0) 4 0 } = true ∧
    nextAnd (step { inEM (line 4 0 0 8) 0 0 [] with de := holds (line 0 0 0 0) 4 0 }) (fun t => !t.fault) = true ∧
    nextAnd (step State.reset) (fun t => !t.fault) = true := by decide

theorem ok_of_toOption {α : Type} {e : Except Abort α} (h : e.toOption.isSome = true) : ∃ a, e = .ok a := by
  cases e with
  | ok a => exact ⟨a, rfl⟩
  | error x => cases h

/-- O16, O18: a cycle that stalls and one that does not. -/
theorem witness_StallsExactlyOnLoadUse :
    (after 1 f4).fault = false ∧ (∃ s1, beforeFetch (after 1 f4) = .ok s1) ∧ stalls (after 1 f4) = true ∧
    f4.fault = false ∧ (∃ s1, beforeFetch f4 = .ok s1) ∧ stalls f4 = false :=
  ⟨by decide, ok_of_toOption (by decide), by decide, by decide, ok_of_toOption (by decide), by decide⟩

/-- O17: a LW to `x0` before a LUI, and a SW that stores what the LW loads. -/
theorem witness_ZeroFieldsCountForTheStall :
    (holds (line 2 0 0 5) 0 0).valid = true ∧ (holds (line 2 0 0 5) 0 0).dec.op = .lw ∧
    (holds (line 2 0 0 5) 0 0).dec.rd = 0 ∧
    decodeRecord (line 6 9 1 0) = .ok { op := .lui, rd := 9, rs1 := 0, rs2 := 0, imm := 1 } ∧
    (holds (line 2 7 0 5) 0 0).dec.rd = 7 ∧
    decodeRecord (line 3 7 0 9) = .ok { op := .sw, rd := 0, rs1 := 9, rs2 := 7, imm := 0 } := by decide

/-- O19: after a stall, a cycle that takes no branch (F4), and one whose Memory sub-step takes the BEQ ahead. -/
theorem witness_StallRepeatsUntilAFlush :
    (stalls (after 1 f4) = true ∧
      nextAnd (step (after 1 f4)) (fun t => !takesBranch t && (memory (writeback t)).toOption.isSome) = true) ∧
    (let s := after 2 (boot [line 4 0 0 12, line 2 1 0 2, line 0 3 1 4] [])
     stalls s = true ∧ nextAnd (step s) (fun t => takesBranch t) = true) := by decide

/-- O20: F4 after its first cycle, and with a LUI ahead of the LW. -/
theorem witness_LoadUseLivelock :
    ∀ s ∈ [after 1 f4, after 2 (boot [line 6 1 1 0, line 2 1 0 2, line 3 1 0 4] [])],
      s.fault = false ∧ s.fd.valid = true ∧
      (match decodeRecord s.fd.raw, decodeRecord (s.progAt s.pc) with
        | .ok lw, .ok next => decide (lw.op = .lw) && (decide (lw.rd = next.rs1) || decide (lw.rd = next.rs2))
        | _, _ => false) = true ∧
      (s.de.valid = true → s.de.dec.op = .add ∨ s.de.dec.op = .addi ∨ s.de.dec.op = .lui) ∧
      (s.em.valid = true → s.em.dec.op = .add ∨ s.em.dec.op = .addi ∨ s.em.dec.op = .lui) := by decide

/-- A LW in EM with a filler in DE. -/
def spaced : State := after 3 (boot [line 2 1 0 0, line 1 5 5 1, line 0 3 1 1] [])

theorem witness_Inv_spaced : Inv spaced := by
  refine ⟨by decide, by decide, by decide, by decide, by decide, by decide⟩

theorem witness_LoadedValueNeverForwarded :
    Inv spaced ∧ ∃ s1, memory (writeback spaced) = .ok s1 ∧ s1.de.valid = true ∧ s1.mw.dec.op = .lw := by
  refine ⟨witness_Inv_spaced, ?_⟩
  obtain ⟨s1, h⟩ := ok_of_toOption (e := memory (writeback spaced)) (by decide)
  refine ⟨s1, h, ?_⟩
  have key : (match memory (writeback spaced) with
      | .ok s1 => s1.de.valid && decide (s1.mw.dec.op = .lw)
      | .error _ => false) = true := by decide
  rw [h] at key
  simpa using key

/-- O23: targets 0 and 2^32 - 4; a target line that decodes, the sentinel, and the two kinds that do not decode. -/
theorem witness_TakenBranchFlushes :
    ∀ s ∈ [inEM (line 4 0 0 0) 0 0 [line 1 1 0 1], inEM (line 5 1 2 0x7FFFFFFC) 0x80000000 0x80000000 [],
        inEM (line 4 0 0 (-4)) 4 0 [line 15 1 2 3], inEM (line 4 0 0 (-4)) 4 0 [line 1 32 0 1]],
      s.fault = false ∧ takesBranch s = true ∧ (0 : Int) ≤ s.em.pc.toNat + s.em.dec.imm.toInt ∧
      (s.em.pc.toNat + s.em.dec.imm.toInt : Int) < 2 ^ 32 ∧ (s.em.pc.toNat + s.em.dec.imm.toInt : Int) % 4 = 0 := by
  decide

theorem witness_LuiThenAddi : regFieldOk 0 = true ∧ regFieldOk 31 = true := by decide

/-- O11 and O24: a cycle that faults, and the raise of its Memory sub-step. -/
theorem witness_FaultUndoesTheCycle :
    (match subSteps (fetchRaw (inEM (line 2 1 64 0) 0 64 [])) (inEM (line 2 1 64 0) 0 64 []) with
      | .ok _ => false
      | .error e => decide (e = .raise (boundsError 0 64))) = true ∧
    (inEM (line 2 1 64 0) 0 64 []).fault = false ∧ nextAnd (step (inEM (line 2 1 64 0) 0 64 [])) (fun t => t.fault) = true := by decide

theorem witness_HaltedBlockDoesNothing :
    FaultRecordOk (after 4 (boot [line 3 0 (-4) 0] [])) ∧ (after 4 (boot [line 3 0 (-4) 0] [])).fault = true := by
  decide

/-- O26: a LW at 64 and a SW at the highest address; the record names the fault. -/
theorem witness_MemoryBoundsErrorIsRecorded :
    ∀ s ∈ [inEM (line 2 1 64 0) 0 64 [], inEM (line 3 1 (-1) 0) 0 0xFFFFFFFF []],
      s.fault = false ∧ s.em.valid = true ∧ (s.em.dec.op = .lw ∨ s.em.dec.op = .sw) ∧ 64 ≤ s.em.alu.toNat ∧
      nextAnd (step s) (fun t => t.fault && decide (t.faultInfo.map FaultInfo.code = some .memoryBounds)) = true := by
  decide

/-- O27: targets -4, 2^32 and 6. -/
theorem witness_BranchTargetErrorIsRecorded :
    ∀ s ∈ [inEM (line 4 0 0 (-4)) 0 0 [], inEM (line 4 0 0 0x7FFFFFFC) 0x80000004 0 [], inEM (line 5 0 1 6) 0 0xFFFFFFFF []],
      s.fault = false ∧ takesBranch s = true ∧
      ((s.em.pc.toNat + s.em.dec.imm.toInt : Int) < 0 ∨ (2 : Int) ^ 32 ≤ s.em.pc.toNat + s.em.dec.imm.toInt ∨
        (s.em.pc.toNat + s.em.dec.imm.toInt : Int) % 4 ≠ 0) ∧
      nextAnd (step s) (fun t => t.fault && decide (t.faultInfo.map FaultInfo.code = some .branchTarget)) = true := by
  decide

/-- O28: section 2.1's two kinds of bad line at the peek. -/
theorem witness_DecodeErrorAtThePeek :
    State.reset.fault = false ∧
    (∃ s1, beforeFetch (boot [line 8 1 2 3] []) = .ok s1) ∧
    decodeRecord (fetchRaw (boot [line 8 1 2 3] [])) = .error (.unknownMnemonic 8) ∧
    (∃ s1, beforeFetch (boot [line 1 (-1) 0 1] []) = .ok s1) ∧
    decodeRecord (fetchRaw (boot [line 1 (-1) 0 1] [])) = .error (.registerOutOfRange (-1)) :=
  ⟨by decide, ok_of_toOption (by decide), by decide, ok_of_toOption (by decide), by decide⟩

/-- O29: both of them raise in one cycle. -/
theorem witness_MemoryFaultComesFirst :
    (inEM (line 2 1 64 0) 0 64 [line 15 0 0 0]).fault = false ∧
    memory (writeback (inEM (line 2 1 64 0) 0 64 [line 15 0 0 0])) = .error (.raise (boundsError 0 64)) := by
  refine ⟨by decide, ?_⟩
  have key : (match memory (writeback (inEM (line 2 1 64 0) 0 64 [line 15 0 0 0])) with
      | .ok _ => false
      | .error e => decide (e = .raise (boundsError 0 64))) = true := by decide
  revert key
  cases memory (writeback (inEM (line 2 1 64 0) 0 64 [line 15 0 0 0])) <;> simp

/-- O30: a first bad field for every instruction. -/
theorem witness_IllFormedInstructionRaises :
    Instr.badField (.add 0 32 (-1)) = some 32 ∧ Instr.badField (.addi 0 (-1) 99) = some (-1) ∧
    Instr.badField (.lw 32 0 0) = some 32 ∧ Instr.badField (.sw 0 99 40) = some 40 ∧
    Instr.badField (.beq 0 32 0) = some 32 ∧ Instr.badField (.blt (-1) 0 0) = some (-1) ∧
    Instr.badField (.lui 32 0 0) = some 32 := by decide

/-- O31, O32: the cycle that ends a run, and one that does not. -/
theorem witness_StillActiveMeansALatchIsValid :
    nextAnd (step State.reset) (fun t => !t.fault && !t.stillActive) = true ∧
    nextAnd (step f4) (fun t => !t.fault && t.stillActive && t.fd.valid) = true := by decide

/-- O34: a first line of each kind. -/
theorem witness_FirstCycleFetchesLineZero :
    (decodeRecord (line 1 1 0 5)).toOption.isSome = true ∧ decodeRecord Raw.sentinel = .error .sentinel ∧
    decodeRecord (line 15 0 0 0) = .error (.unknownMnemonic 15) ∧
    decodeRecord (line 1 32 0 1) = .error (.registerOutOfRange 32) := by decide

/-- Program P1 of section 3. -/
def p1 : List Raw := [line 1 1 0 5, line 1 2 1 10, line 0 3 1 2]

/-- O35: P1 is straight-line. -/
theorem witness_StraightLineTiming :
    1 ≤ p1.length ∧ p1.length < 2 ^ 30 ∧ (∀ r ∈ p1, Token.ofCode r.tok ≠ .nop) ∧
    (∃ last, runs 7 { State.reset with prog := p1 } = .next last ∧ last.fault = false) ∧
    (∀ j t, j < 7 → runs j { State.reset with prog := p1 } = .next t → stalls t = false ∧ takesBranch t = false) ∧
    Drained State.reset ∧ SentinelAt State.reset State.reset.pc := by
  refine ⟨by decide, by decide, by decide, ?_, ?_, by decide, by decide⟩
  · obtain ⟨t, h, hp⟩ := of_nextAnd (o := runs 7 { State.reset with prog := p1 }) (p := fun t => !t.fault) (by decide)
    exact ⟨t, h, by simpa using hp⟩
  · intro j t hj h
    rw [eq_after h]
    clear h
    interval_cases j <;> exact ⟨by decide, by decide⟩

/-- O36: both sides of the length limit. -/
theorem witness_BootResetsAndLoads :
    2 ^ 30 ≤ (List.replicate (2 ^ 30) Raw.sentinel).length ∧ (List.replicate (2 ^ 30 - 1) Raw.sentinel).length < 2 ^ 30 := by
  rw [List.length_replicate, List.length_replicate]
  decide

/-- O37 to O39. -/
theorem witness_IntegerCompletes :
    Drained State.reset ∧ SentinelAt State.reset (State.reset.pc + 4) ∧ WellFormed (.add 0 31 0) = true ∧
    WellFormed (.addi 31 0 (-1)) = true ∧ WellFormed (.lui 31 (-1) (-99)) = true := by decide

/-- O40, O41: effective addresses 0, 63, 64 and the highest. -/
theorem witness_LoadStoreCompletes :
    Drained State.reset ∧ SentinelAt State.reset (State.reset.pc + 4) ∧ Memory.wf State.reset.mem = true ∧
    (∀ i ∈ [Instr.lw 31 0 0, .lw 31 63 0, .lw 31 64 0, .lw 31 (-1) 0, .sw 31 0 0, .sw 31 63 0, .sw 31 64 0,
      .sw 31 (-1) 0], WellFormed i = true) ∧
    (u32 ((State.reset.readReg (regIx 0)).toNat + (0 : Field).toInt)).toNat < 64 ∧
    (u32 ((State.reset.readReg (regIx 0)).toNat + (63 : Field).toInt)).toNat < 64 ∧
    64 ≤ (u32 ((State.reset.readReg (regIx 0)).toNat + (64 : Field).toInt)).toNat ∧
    64 ≤ (u32 ((State.reset.readReg (regIx 0)).toNat + (-1 : Field).toInt)).toNat :=
  ⟨by decide, by decide, by decide, by decide, by decide, by decide, by decide, by decide⟩

/-- A drained block at address `a`, `x1` holding -1. -/
def drainedAt (a : Word) (p : List Raw) : State := { boot p [(1, 0xFFFFFFFF)] with pc := a }

/-- O42, O43: not taken; taken to 0 (a line that decodes), to 2^32 - 4 (the sentinel), to -4, to 2^32 and to 6. -/
theorem witness_BranchCompletes :
    (∀ s ∈ [drainedAt 0 [line 1 1 0 1], drainedAt 0x80000000 [line 1 1 0 1], drainedAt 0x80000004 [line 1 1 0 1]],
      Drained s ∧ SentinelAt s (s.pc + 4)) ∧
    (∀ i ∈ [Instr.beq 0 31 0, .beq 0 31 0x7FFFFFFC, .beq 0 31 (-4), .beq 0 31 6, .blt 1 0 0, .blt 1 0 0x7FFFFFFC,
      .blt 1 0 (-4), .blt 1 0 6], WellFormed i = true) ∧
    (drainedAt 0 []).readReg (regIx 0) = (drainedAt 0 []).readReg (regIx 31) ∧
    (drainedAt 0 []).readReg (regIx 0) ≠ (drainedAt 0 []).readReg (regIx 1) ∧
    ((drainedAt 0 []).readReg (regIx 1) - (drainedAt 0 []).readReg (regIx 0)).getLsbD 31 = true ∧
    ((drainedAt 0 []).readReg (regIx 0) - (drainedAt 0 []).readReg (regIx 1)).getLsbD 31 = false ∧
    decodes ((drainedAt 0 [line 1 1 0 1]).progAt (u32 0)) = true ∧
    SentinelAt (drainedAt 0x80000000 [line 1 1 0 1]) (u32 (2 ^ 32 - 4)) :=
  ⟨by decide, by decide, by decide, by decide, by decide, by decide, by decide, by decide⟩

theorem witness_Inv_reset : Inv State.reset := by
  refine ⟨by decide, by decide, by decide, by decide, by decide, by decide⟩

/-- O45, O47: a state in mid-run meets the invariant, and a cycle leads on from it. -/
theorem witness_CycleKeepsInv : Inv spaced ∧ ∃ t, CycleTo spaced t := by
  refine ⟨witness_Inv_spaced, ?_⟩
  obtain ⟨t, h, -⟩ := quiet_of (s := spaced) (p := fun _ => true) (by decide) (by decide)
  exact ⟨t, h.1⟩

theorem witness_CanonicalMemoriesAreEqual :
    Memory.wf [(0, 1), (15, 0xFFFFFFFF)] = true ∧
    ∀ k, k < 16 → Memory.read [(0, 1), (15, 0xFFFFFFFF)] k = Memory.read [(0, 1), (15, 0xFFFFFFFF)] k := by
  exact ⟨by decide, fun _ _ => rfl⟩

/-- O49: a cycle the next-state form completes and one that it faults. -/
theorem witness_NextStateFormAgrees :
    spaced.fault = false ∧ (spaced.fd.valid = true → decodes spaced.fd.raw = true) ∧
    (nextForm spaced).toOption.isSome = true ∧
    (nextForm (inEM (line 2 1 64 0) 0 64 [])).toOption.isSome = false := by decide

/-- O50: P1 terminates after 7 cycles and writes no `x0`. -/
theorem witness_PipelineMatchesSequential :
    Drained { State.reset with prog := p1 } ∧
    (∃ t, runs (6 + 1) { State.reset with prog := p1 } = .next t ∧ t.fault = false ∧ t.stillActive = false) ∧
    (∀ j u, j ≤ 6 → runs j { State.reset with prog := p1 } = .next u → u.mw.valid = true →
      writesReg u.mw.dec.op = true → u.mw.dec.rd ≠ 0) := by
  refine ⟨by decide, ?_, ?_⟩
  · obtain ⟨t, h, hp⟩ := of_nextAnd (o := runs (6 + 1) { State.reset with prog := p1 })
      (p := fun t => !t.fault && !t.stillActive) (by decide)
    exact ⟨t, h, by simpa using hp⟩
  · intro j u hj h
    rw [eq_after h]
    clear h
    interval_cases j <;> decide

/-- O51: two states that differ in fields no rule reads. -/
theorem witness_InvalidLatchFieldsUnobservable :
    SameButDontCare State.reset { State.reset with de := { Latch.empty with alu := 5, dec := { Decoded.zero with rd := 3 } } } ∧
    State.reset ≠ { State.reset with de := { Latch.empty with alu := 5, dec := { Decoded.zero with rd := 3 } } } := by
  decide

end Sys2Proof.Tests
end

/-! PROOFS. The program source and the start of the block (00_scope.md R8, R11, R12): no sub-step writes the program, so no
cycle does; the address a cycle reads it at; and what the host may start the block on. -/

namespace Sys2Proof.Machine

/-! ### No sub-step writes the program source (R12) -/

theorem memory_prog {s s1 : State} (h : memory s = .ok s1) : s1.prog = s.prog := by
  rcases memory_cases h with ⟨-, rfl⟩ | ⟨-, -, -, -, rfl⟩ | ⟨-, -, -, rfl⟩ | ⟨-, -, -, rfl⟩ | ⟨-, -, rfl⟩ <;> rfl

@[simp] theorem forward_prog (s : State) : (forward s).prog = s.prog := rfl

@[simp] theorem execute_prog (s : State) : (execute s).prog = s.prog := by
  rcases execute_cases s with ⟨-, h⟩ | ⟨-, h⟩ <;> rw [h] <;> rfl

theorem decodeStage_prog {s s1 : State} (h : decodeStage s = .ok s1) : s1.prog = s.prog := by
  rcases decodeStage_cases h with ⟨-, rfl⟩ | ⟨d, -, -, rfl⟩ <;> rfl

theorem stallOrFetch_prog {port : Raw} {s s1 : State} {b : Bool} (h : stallOrFetch port s = .ok (s1, b)) :
    s1.prog = s.prog := by
  rcases stallOrFetch_cases h with ⟨d, -, -, rfl, -⟩ | ⟨-, rfl, -⟩ | ⟨d, -, -, rfl, -⟩ <;> rfl

theorem subSteps_prog {port : Raw} {s s4 : State} {b : Bool} (h : subSteps port s = .ok (s4, b)) :
    s4.prog = s.prog := by
  obtain ⟨s1, s3, hmem, hid, -, hif⟩ := subSteps_cases h
  calc s4.prog = s3.prog := stallOrFetch_prog hif
    _ = (execute (forward s1)).prog := decodeStage_prog hid
    _ = s1.prog := by simp
    _ = (writeback s).prog := memory_prog hmem
    _ = s.prog := writeback_prog s

/-- A halted cycle, a completed one and one that records a fault all keep the program. -/
theorem advance_prog {port : Raw} {s t : State} (h : advance port s = .next t) : t.prog = s.prog := by
  rcases advance_next h with ⟨-, rfl⟩ | ⟨-, s4, b, hs, rfl⟩ | ⟨-, r, -, rfl⟩
  · rfl
  · exact (endCycle_prog s4 b).trans (subSteps_prog hs)
  · exact takeFault_prog s r

/-- Every cycle, of `step` or of `exec`, is an `advance` on some port. -/
theorem advance_of_cycleTo {s t : State} (h : CycleTo s t) : ∃ port, advance port s = .next t := by
  rcases h with hstep | ⟨i, hexec⟩
  · exact ⟨fetchRaw s, step_eq_advance s ▸ hstep⟩
  · exact ⟨encode i, exec_eq_advance i s ▸ hexec⟩

theorem cycleTo_prog {s t : State} (h : CycleTo s t) : t.prog = s.prog := by
  obtain ⟨port, hadv⟩ := advance_of_cycleTo h
  exact advance_prog hadv

/-- Past its last line the program source answers the sentinel (R12, R80). -/
theorem progAt_past_end {s : State} {a : Word} (h : s.prog.length ≤ a.toNat / Config.ilen) :
    s.progAt a = Raw.sentinel :=
  List.getD_eq_default s.prog Raw.sentinel h

/-- Settles O9: every cycle is an `advance`, and no sub-step of one writes the program. -/
theorem programSourceIsReadOnly : Obligations.ProgramSourceIsReadOnly := by
  refine ⟨fun _ _ => cycleTo_prog, fun s a h => ?_⟩
  rw [progAt_past_end h]
  rfl

/-! ### Where a cycle reads the program source (R11) -/

/-- WB does not touch EM, so MEM decides on the branch that stood there at the start of the cycle. -/
@[simp] theorem takesBranch_writeback (s : State) : takesBranch (writeback s) = takesBranch s := by
  simp [takesBranch]

/-- Only a taken branch moves the pc in MEM. -/
theorem memory_pc_of_not_takesBranch {s s1 : State} (h : memory s = .ok s1) (ht : takesBranch s = false) :
    s1.pc = s.pc := by
  rcases memory_cases h with ⟨-, rfl⟩ | ⟨-, -, -, -, rfl⟩ | ⟨-, -, -, rfl⟩ | ⟨-, -, -, rfl⟩ | ⟨htaken, -, -⟩
  · rfl
  · rfl
  · rfl
  · rfl
  · simp [ht] at htaken

theorem fetchAddr_of_memory_ok {s s1 : State} (h : memory (writeback s) = .ok s1) : fetchAddr s = s1.pc := by
  simp [fetchAddr, h]

theorem fetchAddr_of_memory_error {s : State} {a : Abort} (h : memory (writeback s) = .error a) :
    fetchAddr s = s.pc := by
  simp [fetchAddr, h]

theorem fetchAddr_of_not_takesBranch {s : State} (ht : takesBranch s = false) : fetchAddr s = s.pc := by
  cases hmem : memory (writeback s) with
  | error a => exact fetchAddr_of_memory_error hmem
  | ok s1 =>
    calc fetchAddr s = s1.pc := fetchAddr_of_memory_ok hmem
      _ = (writeback s).pc := memory_pc_of_not_takesBranch hmem (by simpa using ht)
      _ = s.pc := writeback_pc s

theorem fetchAddr_of_takesBranch {s : State} (ht : takesBranch s = true)
    (hok : targetOk (branchTarget s.em.pc s.em.dec.imm) = true) :
    fetchAddr s = u32 (branchTarget s.em.pc s.em.dec.imm) := by
  have hmem := memory_taken (s := writeback s) (by simpa using ht) (by simpa using hok)
  simpa using fetchAddr_of_memory_ok hmem

theorem step_eq_exec {s : State} {i : Instr} (h : decode (fetchRaw s) = .ok i) : step s = exec i s := by
  simp [step, h]

/-- Settles O6: the fetch address by whether MEM takes a branch, and the arm of `step` that decodes. -/
theorem stepRunsTheDecodedInstruction : Obligations.StepRunsTheDecodedInstruction :=
  fun _ => ⟨rfl, fetchAddr_of_not_takesBranch, fetchAddr_of_takesBranch, fun _ => step_eq_exec⟩

/-! ### Boot (R286, R325) -/

theorem boot_unreadable : State.boot none = .refused .programUnreadable := rfl

theorem boot_too_long {p : List Raw} (h : Config.progLimit ≤ p.length) :
    State.boot (some p) = .refused .programTooLong := by
  rcases boot_cases (some p) with ⟨hnone, -⟩ | ⟨q, hq, hlt, -⟩ | ⟨q, -, -, hboot⟩
  · cases hnone
  · cases hq
    exact absurd h (Nat.not_le_of_lt hlt)
  · exact hboot

theorem boot_loads {p : List Raw} (h : p.length < Config.progLimit) :
    State.boot (some p) = .next { State.reset with prog := p } := by
  rcases boot_cases (some p) with ⟨hnone, -⟩ | ⟨q, hq, -, hboot⟩ | ⟨q, hq, hle, -⟩
  · cases hnone
  · cases hq
    exact hboot
  · cases hq
    exact absurd h (Nat.not_lt_of_le hle)

/-- Settles O36: `boot` has one outcome for each kind of program source. -/
theorem bootResetsAndLoads : Obligations.BootResetsAndLoads :=
  ⟨boot_unreadable, fun _ => boot_too_long, fun _ => boot_loads⟩

end Sys2Proof.Machine

/-! PROOFS. Reset, and what a cycle does to the registers and the pc (10_state.md R32, R35, R47; 40_pipeline.md R140 to
R153): the frame of the sub-steps, the inversion of a cycle that raises nothing, and the fetch into a drained block. -/

namespace Sys2Proof.Machine

/-! ### Reset (R47, R320) -/

theorem readReg_reset (r : RegIx) : State.reset.readReg r = 0 := by
  simp [State.reset, State.readReg]

/-- Settles O33: all four latches after reset are `Latch.empty`, and the other fields are the constants of R47. -/
theorem resetValues : Obligations.ResetValues := by
  refine ⟨readReg_reset, fun _ _ => rfl, rfl, fun l hl => ?_, rfl, rfl, rfl, rfl, fun _ => rfl⟩
  obtain rfl : l = Latch.empty := by simpa [State.reset] using hl
  exact ⟨rfl, rfl, rfl, rfl, rfl, rfl, rfl, rfl⟩

/-- Settles O46: the memory and the latches are empty, and the first `still_active` is that of cycle 0. -/
theorem resetSatisfiesInv : Obligations.ResetSatisfiesInv := by
  intro p
  have haligned : AddressesAligned { State.reset with prog := p } := by
    simp [AddressesAligned, aligned, State.reset, Latch.empty]
  have hdecoded : LatchesDecoded { State.reset with prog := p } := by
    simp [LatchesDecoded, State.reset, Latch.empty]
  have hspaced : LoadsSpaced { State.reset with prog := p } := by
    simp [LoadsSpaced, State.reset, Latch.empty]
  exact ⟨rfl, haligned, hdecoded, hspaced, ⟨rfl, fun h => absurd h (by simp [State.reset])⟩,
    fun _ => ⟨fun _ => rfl, fun _ => .inr rfl⟩⟩

/-! ### One cycle, taken apart -/

/-- A property that every sub-step keeps is kept by the six of them together (R141). -/
theorem subSteps_keeps {P : State → Prop} (hwb : ∀ s, P s → P (writeback s))
    (hmem : ∀ s s1, memory s = .ok s1 → P s → P s1) (hfwd : ∀ s, P s → P (forward s))
    (hex : ∀ s, P s → P (execute s)) (hid : ∀ s s1, decodeStage s = .ok s1 → P s → P s1)
    (hif : ∀ port s s1 b, stallOrFetch port s = .ok (s1, b) → P s → P s1)
    {port : Raw} {s s4 : State} {b : Bool} (h : subSteps port s = .ok (s4, b)) (hs : P s) : P s4 := by
  obtain ⟨s1, s3, h1, h3, -, h4⟩ := subSteps_cases h
  exact hif _ _ _ _ h4 (hid _ _ h3 (hex _ (hfwd _ (hmem _ _ h1 (hwb _ hs)))))

/-- The fields that no sub-step after WB writes: the registers, and the fault flag with its record. -/
def SameRegsAndRecord (s s1 : State) : Prop :=
  s1.regs = s.regs ∧ s1.fault = s.fault ∧ s1.faultInfo = s.faultInfo

theorem SameRegsAndRecord.trans {s s1 s2 : State} (h : SameRegsAndRecord s s1) (h' : SameRegsAndRecord s1 s2) :
    SameRegsAndRecord s s2 := by
  obtain ⟨hr, hf, hi⟩ := h
  obtain ⟨hr', hf', hi'⟩ := h'
  exact ⟨hr'.trans hr, hf'.trans hf, hi'.trans hi⟩

theorem memory_sameRegsAndRecord {s s1 : State} (h : memory s = .ok s1) : SameRegsAndRecord s s1 := by
  rcases memory_cases h with ⟨-, rfl⟩ | ⟨-, -, -, -, rfl⟩ | ⟨-, -, -, rfl⟩ | ⟨-, -, -, rfl⟩ | ⟨-, -, rfl⟩ <;>
    exact ⟨rfl, rfl, rfl⟩

theorem execute_sameRegsAndRecord (s : State) : SameRegsAndRecord s (execute s) := by
  rcases execute_cases s with ⟨-, h⟩ | ⟨-, h⟩ <;> rw [h] <;> exact ⟨rfl, rfl, rfl⟩

theorem decodeStage_sameRegsAndRecord {s s1 : State} (h : decodeStage s = .ok s1) : SameRegsAndRecord s s1 := by
  rcases decodeStage_cases h with ⟨-, rfl⟩ | ⟨d, -, -, rfl⟩ <;> exact ⟨rfl, rfl, rfl⟩

theorem stallOrFetch_sameRegsAndRecord {port : Raw} {s s1 : State} {b : Bool}
    (h : stallOrFetch port s = .ok (s1, b)) : SameRegsAndRecord s s1 := by
  rcases stallOrFetch_cases h with ⟨d, -, -, rfl, -⟩ | ⟨-, rfl, -⟩ | ⟨d, -, -, rfl, -⟩ <;> exact ⟨rfl, rfl, rfl⟩

/-- The registers after a cycle are those WB leaves; the fault flag and its record are not written. -/
theorem subSteps_sameRegsAndRecord {port : Raw} {s s4 : State} {b : Bool} (h : subSteps port s = .ok (s4, b)) :
    SameRegsAndRecord (writeback s) s4 := by
  obtain ⟨s1, s3, h1, h3, -, h4⟩ := subSteps_cases h
  have hfwd : SameRegsAndRecord s1 (forward s1) := ⟨rfl, rfl, rfl⟩
  exact (memory_sameRegsAndRecord h1).trans <| hfwd.trans <| (execute_sameRegsAndRecord _).trans <|
    (decodeStage_sameRegsAndRecord h3).trans (stallOrFetch_sameRegsAndRecord h4)

theorem subSteps_regs {port : Raw} {s s4 : State} {b : Bool} (h : subSteps port s = .ok (s4, b)) :
    s4.regs = nsX1 s := by
  obtain ⟨hregs, -, -⟩ := subSteps_sameRegsAndRecord h
  simpa using hregs

theorem subSteps_fault {port : Raw} {s s4 : State} {b : Bool} (h : subSteps port s = .ok (s4, b)) :
    s4.fault = s.fault := by
  obtain ⟨-, hfault, -⟩ := subSteps_sameRegsAndRecord h
  simpa using hfault

theorem subSteps_faultInfo {port : Raw} {s s4 : State} {b : Bool} (h : subSteps port s = .ok (s4, b)) :
    s4.faultInfo = s.faultInfo := by
  obtain ⟨-, -, hinfo⟩ := subSteps_sameRegsAndRecord h
  simpa using hinfo

/-- A cycle that raises nothing runs the six sub-steps to their end. -/
theorem advance_quiet {port : Raw} {s t : State} (h : advance port s = .next t) (hs : s.fault = false)
    (ht : t.fault = false) : ∃ s4 b, subSteps port s = .ok (s4, b) ∧ t = s4.endCycle b := by
  rcases advance_next h with ⟨hfault, -⟩ | ⟨-, s4, b, hsub, rfl⟩ | ⟨-, r, -, rfl⟩
  · simp [hs] at hfault
  · exact ⟨s4, b, hsub, rfl⟩
  · simp at ht

/-! ### The register file (R32, R143) -/

theorem quietCycle_regs {s t : State} (h : QuietCycle s t) : t.regs = nsX1 s := by
  obtain ⟨hcyc, hs, ht⟩ := h
  obtain ⟨port, hadv⟩ := advance_of_cycleTo hcyc
  obtain ⟨s4, b, hsub, rfl⟩ := advance_quiet hadv hs ht
  exact (endCycle_regs s4 b).trans (subSteps_regs hsub)

/-- A cycle that ends with the fault flag set found it set, or undid its own register write (R282, R284). -/
theorem faultingCycle_regs {s t : State} (h : CycleTo s t) (ht : t.fault = true) : t.regs = s.regs := by
  obtain ⟨port, hadv⟩ := advance_of_cycleTo h
  rcases advance_next hadv with ⟨-, rfl⟩ | ⟨hs, s4, b, hsub, rfl⟩ | ⟨-, r, -, rfl⟩
  · rfl
  · simp [subSteps_fault hsub, hs] at ht
  · rfl

theorem nsX1_of_writesReg {s : State} (hv : s.mw.valid = true) (hw : writesReg s.mw.dec.op = true) :
    nsX1 s = s.regs.set s.mw.dec.rd.toNat (mwResult s.mw) s.mw.dec.rd.isLt := by
  simp [nsX1, hv, hw]

theorem nsX1_of_not_writesReg {s : State} (hw : writesReg s.mw.dec.op = false) : nsX1 s = s.regs := by
  simp [nsX1, hw]

theorem nsX1_of_invalid {s : State} (hv : s.mw.valid = false) : nsX1 s = s.regs := by
  simp [nsX1, hv]

/-- Settles O11: after a quiet cycle the registers are WB's `nsX1`, read off by the opcode in MW. -/
theorem writebackWritesOneRegister : Obligations.WritebackWritesOneRegister := by
  refine ⟨fun s t hq => ?_, fun s t => faultingCycle_regs⟩
  rw [quietCycle_regs hq]
  refine ⟨fun hv hop => ?_, fun hv hop => ?_, fun hv hop => ?_, nsX1_of_invalid⟩
  · rw [nsX1_of_writesReg hv] <;> rcases hop with hop | hop | hop <;> simp [mwResult, writesReg, hop]
  · rw [nsX1_of_writesReg hv] <;> simp [mwResult, writesReg, hop]
  · exact nsX1_of_not_writesReg (by rcases hop with hop | hop | hop <;> simp [writesReg, hop])

/-! ### The pc (R35, R153, R264) -/

@[simp] theorem forward_pc (s : State) : (forward s).pc = s.pc := rfl

@[simp] theorem execute_pc (s : State) : (execute s).pc = s.pc := by
  rcases execute_cases s with ⟨-, h⟩ | ⟨-, h⟩ <;> rw [h] <;> rfl

theorem decodeStage_pc {s s1 : State} (h : decodeStage s = .ok s1) : s1.pc = s.pc := by
  rcases decodeStage_cases h with ⟨-, rfl⟩ | ⟨d, -, -, rfl⟩ <;> rfl

/-- The address STALL_IF finds in the pc is the one the program source is read at (R11). -/
theorem beforeFetch_pc {s s3 : State} (h : beforeFetch s = .ok s3) : s3.pc = fetchAddr s := by
  obtain ⟨s1, h1, h3⟩ := beforeFetch_cases h
  rw [fetchAddr_of_memory_ok h1, decodeStage_pc h3, execute_pc, forward_pc]

/-- A cycle that gets past MEM takes no branch to a target that cannot be fetched (R265). -/
theorem targetOk_of_beforeFetch {s s3 : State} (h : beforeFetch s = .ok s3) (ht : takesBranch s = true) :
    targetOk (branchTarget s.em.pc s.em.dec.imm) = true := by
  obtain ⟨s1, h1, -⟩ := beforeFetch_cases h
  cases hok : targetOk (branchTarget s.em.pc s.em.dec.imm) with
  | true => rfl
  | false => simp [memory_badTarget (s := writeback s) (by simpa using ht) (by simpa using hok)] at h1

theorem fetchAddr_of_beforeFetch {s s3 : State} (h : beforeFetch s = .ok s3) :
    fetchAddr s = if takesBranch s = true then u32 (branchTarget s.em.pc s.em.dec.imm) else s.pc := by
  split
  · next ht => exact fetchAddr_of_takesBranch ht (targetOk_of_beforeFetch h ht)
  · next ht => exact fetchAddr_of_not_takesBranch (by simpa using ht)

theorem decode_of_decodeRecord_error {r : Raw} {e : Reject} (h : decodeRecord r = .error e) : decode r = .error e := by
  unfold decodeRecord at h
  split at h
  · cases h
  · next e' he => cases h; exact he

theorem select_of_decode_sentinel {r : Raw} (h : decode r = .error .sentinel) : r.select = .error .sentinel := by
  unfold decode at h
  split at h
  · next e he => cases h; exact he
  · split at h <;> cases h

/-- Only the sentinel's token is rejected as the sentinel (R110, R114). -/
theorem tok_of_decodeRecord_sentinel {r : Raw} (h : decodeRecord r = .error .sentinel) :
    Token.ofCode r.tok = .nop := by
  have hsel := select_of_decode_sentinel (decode_of_decodeRecord_error h)
  cases htok : Token.ofCode r.tok <;> simp [Raw.select, htok] at hsel ⊢

theorem stallsOn_of_decodes {port : Raw} {s s3 : State} {d : Decoded} (h : beforeFetch s = .ok s3)
    (hd : decodeRecord port = .ok d) : stallsOn port s = loadUse s3.de (some d) := by
  simp [stallsOn, h, peek, hd]

theorem stallsOn_of_sentinel {port : Raw} {s s3 : State} (h : beforeFetch s = .ok s3)
    (hd : decodeRecord port = .error .sentinel) : stallsOn port s = false := by
  simp [stallsOn, h, peek, hd, loadUse]

/-- Settles O10: one case per outcome of STALL_IF, which finds the pc at the redirected address. -/
theorem pcChangesInThreeWays : Obligations.PcChangesInThreeWays := by
  intro s t hs hstep ht base
  rw [step_eq_advance] at hstep
  obtain ⟨s4, b, hsub, rfl⟩ := advance_quiet hstep hs ht
  obtain ⟨s1, s3, -, -, h3, h4⟩ := subSteps_cases hsub
  have hpc : s3.pc = base := (beforeFetch_pc h3).trans (fetchAddr_of_beforeFetch h3)
  have hstalls : stalls s = stallsOn (fetchRaw s) s := by simp [stalls, hs]
  rw [hstalls]
  rcases stallOrFetch_cases h4 with ⟨d, hd, hlu, rfl, -⟩ | ⟨hd, rfl, -⟩ | ⟨d, hd, hlu, rfl, -⟩
  case inl =>
    refine ⟨fun _ => hpc, fun _ => hpc, fun hno => ?_⟩
    simp [stallsOn_of_decodes h3 hd, hlu] at hno
  case inr.inl =>
    exact ⟨fun _ => hpc, fun _ => hpc, fun _ hne => absurd (tok_of_decodeRecord_sentinel hd) hne⟩
  case inr.inr =>
    refine ⟨fun hyes => ?_, fun hnop => ?_, fun _ _ => ⟨?_, rfl, rfl, hpc⟩⟩
    · simp [stallsOn_of_decodes h3 hd, hlu] at hyes
    · simp [decodeRecord_sentinel hnop] at hd
    · simp [nextLine_eq, hpc]

/-! ### The fetch into a drained block -/

theorem decode_encode {i : Instr} (h : WellFormed i = true) : decode (encode i) = .ok i := by
  simp [decode, select_encode, badField_eq_none.mpr h]

theorem clearMW_of_invalid {s : State} (h : s.mw.valid = false) : s.clearMW = s := by
  simp [State.clearMW, ← h]

theorem clearEM_of_invalid {s : State} (h : s.em.valid = false) : s.clearEM = s := by
  simp [State.clearEM, ← h]

theorem clearDE_of_invalid {s : State} (h : s.de.valid = false) : s.clearDE = s := by
  simp [State.clearDE, ← h]

theorem writeback_of_invalid {s : State} (h : s.mw.valid = false) : writeback s = s := by
  rw [writeback_eq, nsX1_of_invalid h]

theorem fwdSelect_of_invalid {mw em : Latch} (hmw : mw.valid = false) (hem : em.valid = false) (src : RegIx) :
    fwdSelect mw em src = FwdSlot.none := by
  simp [fwdSelect, mwForwards, emForwards, hmw, hem]

theorem forward_of_invalid {s : State} (hmw : s.mw.valid = false) (hem : s.em.valid = false) :
    forward s = s.setFwd FwdSlot.none FwdSlot.none := by
  simp [forward, fwdSelect_of_invalid hmw hem]

/-- With nothing in flight, the sub-steps before STALL_IF fill the slots of the empty DE and do no more (R146). -/
theorem beforeFetch_drained {s : State} (h : Drained s) :
    beforeFetch s = .ok (s.setFwd FwdSlot.none FwdSlot.none) := by
  obtain ⟨-, hfd, hde, hem, hmw⟩ := h
  have h1 : memory (writeback s) = .ok s := by
    rw [writeback_of_invalid hmw, memory_invalid hem, clearMW_of_invalid hmw]
  rw [beforeFetch_eq h1, forward_of_invalid hmw hem, execute_invalid (by simpa using hde),
    clearEM_of_invalid (by simpa using hem), decodeStage_invalid (by simpa using hfd),
    clearDE_of_invalid (by simpa using hde)]

/-- Settles O8: a drained block reaches STALL_IF unchanged but for DE's slots, and an empty DE cannot stall the
fetch. -/
theorem execFetchesIntoFD : Obligations.ExecFetchesIntoFD := by
  intro i s hdr hwf
  have hbefore := beforeFetch_drained hdr
  obtain ⟨hfault, -, hde, -, -⟩ := hdr
  have hno : loadUse (s.setFwd FwdSlot.none FwdSlot.none).de (some i.record) = false := by simp [loadUse, hde]
  rw [exec_eq_advance, advance_fetch hfault hbefore (decodeRecord_of_decode (decode_encode hwf)) hno]
  simp [State.fetch, State.endCycle, State.setFwd, nextLine_eq]

end Sys2Proof.Machine

/-! PROOFS. The invariant of the reachable states (10_state.md R36, R45; 40_pipeline.md R150, R168; 41_hazard_unit.md
R205): which parts every sub-step keeps, how a LW stays clear of the instruction behind it, and what a cycle leaves in
`still_active`. -/

namespace Sys2Proof.Machine

/-! ### The canonical memory -/

theorem memory_wf {s s1 : State} (h : memory s = .ok s1) (hs : Memory.wf s.mem = true) :
    Memory.wf s1.mem = true := by
  rcases memory_cases h with ⟨-, rfl⟩ | ⟨-, -, -, -, rfl⟩ | ⟨-, -, -, rfl⟩ | ⟨-, -, hlt, rfl⟩ | ⟨-, -, rfl⟩
  case inr.inr.inr.inl => exact write_wf _ hs hlt
  all_goals exact hs

@[simp] theorem execute_mem (s : State) : (execute s).mem = s.mem := by
  rcases execute_cases s with ⟨-, h⟩ | ⟨-, h⟩ <;> rw [h] <;> rfl

theorem decodeStage_mem {s s1 : State} (h : decodeStage s = .ok s1) : s1.mem = s.mem := by
  rcases decodeStage_cases h with ⟨-, rfl⟩ | ⟨d, -, -, rfl⟩ <;> rfl

theorem stallOrFetch_mem {port : Raw} {s s1 : State} {b : Bool} (h : stallOrFetch port s = .ok (s1, b)) :
    s1.mem = s.mem := by
  rcases stallOrFetch_cases h with ⟨d, -, -, rfl, -⟩ | ⟨-, rfl, -⟩ | ⟨d, -, -, rfl, -⟩ <;> rfl

theorem subSteps_wf {port : Raw} {s s4 : State} {b : Bool} (h : subSteps port s = .ok (s4, b)) :
    Memory.wf s.mem = true → Memory.wf s4.mem = true :=
  subSteps_keeps (P := fun u => Memory.wf u.mem = true) (fun s hs => by simpa using hs) (fun _ _ => memory_wf)
    (fun _ hs => hs) (fun s hs => by simpa using hs) (fun _ _ h hs => decodeStage_mem h ▸ hs)
    (fun _ _ _ _ h hs => stallOrFetch_mem h ▸ hs) h

/-! ### Aligned addresses (R36) -/

theorem aligned_u32_of_targetOk {t : Int} (h : targetOk t = true) : aligned (u32 t) := by
  obtain ⟨h0, h1, h4⟩ := (targetOk_iff t).mp h
  simp only [aligned, u32, BitVec.toNat_ofInt]
  omega

theorem aligned_nextLine {a : Word} (h : aligned a) : aligned (nextLine a) := by
  have h4 : (a + 4).toNat = (a.toNat + 4) % 2 ^ 32 := BitVec.toNat_add a 4
  rw [aligned] at h
  rw [nextLine_eq, aligned, h4]
  omega

theorem em_valid_of_takesBranch {s : State} (h : takesBranch s = true) : s.em.valid = true := by
  simp only [takesBranch, Bool.and_eq_true] at h
  exact h.1

theorem writeback_aligned {s : State} (h : AddressesAligned s) : AddressesAligned (writeback s) := by
  rw [writeback_eq]; exact h

theorem memory_aligned {s s1 : State} (h : memory s = .ok s1) (hs : AddressesAligned s) : AddressesAligned s1 := by
  obtain ⟨hpc, hfd, hde, hem, -⟩ := hs
  rcases memory_cases h with ⟨-, rfl⟩ | ⟨hv, -, -, -, rfl⟩ | ⟨hv, -, -, rfl⟩ | ⟨hv, -, -, rfl⟩ | ⟨ht, hok, rfl⟩
  · exact ⟨hpc, hfd, hde, hem, nofun⟩
  · exact ⟨hpc, hfd, hde, hem, fun _ => hem hv⟩
  · exact ⟨hpc, hfd, hde, hem, fun _ => hem hv⟩
  · exact ⟨hpc, hfd, hde, hem, fun _ => hem hv⟩
  · exact ⟨aligned_u32_of_targetOk hok, nofun, nofun, nofun, fun _ => hem (em_valid_of_takesBranch ht)⟩

theorem execute_aligned {s : State} (hs : AddressesAligned s) : AddressesAligned (execute s) := by
  obtain ⟨hpc, hfd, hde, -, hmw⟩ := hs
  rcases execute_cases s with ⟨-, h⟩ | ⟨hv, h⟩ <;> rw [h]
  · exact ⟨hpc, hfd, hde, nofun, hmw⟩
  · exact ⟨hpc, hfd, hde, fun _ => hde hv, hmw⟩

theorem decodeStage_aligned {s s1 : State} (h : decodeStage s = .ok s1) (hs : AddressesAligned s) :
    AddressesAligned s1 := by
  obtain ⟨hpc, hfd, -, hem, hmw⟩ := hs
  rcases decodeStage_cases h with ⟨-, rfl⟩ | ⟨d, hv, -, rfl⟩
  · exact ⟨hpc, hfd, nofun, hem, hmw⟩
  · exact ⟨hpc, hfd, fun _ => hfd hv, hem, hmw⟩

theorem stallOrFetch_aligned {port : Raw} {s s1 : State} {b : Bool} (h : stallOrFetch port s = .ok (s1, b))
    (hs : AddressesAligned s) : AddressesAligned s1 := by
  obtain ⟨hpc, hfd, hde, hem, hmw⟩ := hs
  rcases stallOrFetch_cases h with ⟨d, -, -, rfl, -⟩ | ⟨-, rfl, -⟩ | ⟨d, -, -, rfl, -⟩
  · exact ⟨hpc, hfd, hde, hem, hmw⟩
  · exact ⟨hpc, nofun, hde, hem, hmw⟩
  · exact ⟨aligned_nextLine hpc, fun _ => hpc, hde, hem, hmw⟩

theorem subSteps_aligned {port : Raw} {s s4 : State} {b : Bool} (h : subSteps port s = .ok (s4, b)) :
    AddressesAligned s → AddressesAligned s4 :=
  subSteps_keeps (P := fun u => AddressesAligned u) (fun _ => writeback_aligned) (fun _ _ => memory_aligned)
    (fun _ hs => hs) (fun _ => execute_aligned) (fun _ _ => decodeStage_aligned)
    (fun _ _ _ _ => stallOrFetch_aligned) h

/-! ### Decoded latches (R149, R150, R201) -/

theorem writeback_decoded {s : State} (h : LatchesDecoded s) : LatchesDecoded (writeback s) := by
  rw [writeback_eq]; exact h

theorem memory_decoded {s s1 : State} (h : memory s = .ok s1) (hs : LatchesDecoded s) : LatchesDecoded s1 := by
  obtain ⟨hfd, hde, hem, -⟩ := hs
  rcases memory_cases h with ⟨-, rfl⟩ | ⟨hv, -, -, -, rfl⟩ | ⟨hv, -, -, rfl⟩ | ⟨hv, -, -, rfl⟩ | ⟨ht, -, rfl⟩
  · exact ⟨hfd, hde, hem, nofun⟩
  · exact ⟨hfd, hde, hem, fun _ => hem hv⟩
  · exact ⟨hfd, hde, hem, fun _ => hem hv⟩
  · exact ⟨hfd, hde, hem, fun _ => hem hv⟩
  · exact ⟨nofun, nofun, nofun, fun _ => hem (em_valid_of_takesBranch ht)⟩

theorem execute_decoded {s : State} (hs : LatchesDecoded s) : LatchesDecoded (execute s) := by
  obtain ⟨hfd, hde, -, hmw⟩ := hs
  rcases execute_cases s with ⟨-, h⟩ | ⟨hv, h⟩ <;> rw [h]
  · exact ⟨hfd, hde, nofun, hmw⟩
  · exact ⟨hfd, hde, fun _ => hde hv, hmw⟩

theorem decodeStage_decoded {s s1 : State} (h : decodeStage s = .ok s1) (hs : LatchesDecoded s) :
    LatchesDecoded s1 := by
  obtain ⟨hfd, -, hem, hmw⟩ := hs
  rcases decodeStage_cases h with ⟨-, rfl⟩ | ⟨d, -, hd, rfl⟩
  · exact ⟨hfd, nofun, hem, hmw⟩
  · exact ⟨hfd, fun _ => by simp [decOfRaw, hd, Except.toOption], hem, hmw⟩

theorem stallOrFetch_decoded {port : Raw} {s s1 : State} {b : Bool} (h : stallOrFetch port s = .ok (s1, b))
    (hs : LatchesDecoded s) : LatchesDecoded s1 := by
  obtain ⟨hfd, hde, hem, hmw⟩ := hs
  rcases stallOrFetch_cases h with ⟨d, -, -, rfl, -⟩ | ⟨-, rfl, -⟩ | ⟨d, hd, -, rfl, -⟩
  · exact ⟨hfd, fun _ => by simp [decOfRaw], hem, hmw⟩
  · exact ⟨nofun, hde, hem, hmw⟩
  · exact ⟨fun _ => by simp [decodes, hd], hde, hem, hmw⟩

theorem subSteps_decoded {port : Raw} {s s4 : State} {b : Bool} (h : subSteps port s = .ok (s4, b)) :
    LatchesDecoded s → LatchesDecoded s4 :=
  subSteps_keeps (P := fun u => LatchesDecoded u) (fun _ => writeback_decoded) (fun _ _ => memory_decoded)
    (fun _ hs => hs) (fun _ => execute_decoded) (fun _ _ => decodeStage_decoded)
    (fun _ _ _ _ => stallOrFetch_decoded) h

/-! ### Spaced loads (R200, R205) -/

/-- The instruction in FD does not depend on a LW in DE: the first half of `LoadsSpaced`. -/
def FdSpaced (s : State) : Prop :=
  s.de.valid = true → s.de.dec.op = .lw → s.fd.valid = true → fillerOk s.de.dec s.fd.raw = true

/-- The instruction in DE does not depend on a LW in EM: the second half of `LoadsSpaced`. -/
def DeSpaced (s : State) : Prop :=
  s.em.valid = true → s.em.dec.op = .lw → s.de.valid = true →
    s.de.dec.rs1 ≠ s.em.dec.rd ∧ s.de.dec.rs2 ≠ s.em.dec.rd

theorem loadsSpaced_iff {s : State} : LoadsSpaced s ↔ FdSpaced s ∧ DeSpaced s := Iff.rfl

theorem fillerOk_iff {lw d : Decoded} {next : Raw} (h : decodeRecord next = .ok d) :
    fillerOk lw next = true ↔ d.rs1 ≠ lw.rd ∧ d.rs2 ≠ lw.rd := by
  simp [fillerOk, h]

/-- A LW has no second source field (R105, R106). -/
theorem rs2_of_decoded_lw {r : Raw} {d : Decoded} (h : decodeRecord r = .ok d) (hop : d.op = .lw) : d.rs2 = 0 := by
  obtain ⟨i, -, rfl⟩ := decodeRecord_cases h
  cases i with
  | lw => rfl
  | _ => cases hop

theorem memory_fdSpaced {s s1 : State} (h : memory s = .ok s1) (hs : FdSpaced s) : FdSpaced s1 := by
  rcases memory_cases h with ⟨-, rfl⟩ | ⟨-, -, -, -, rfl⟩ | ⟨-, -, -, rfl⟩ | ⟨-, -, -, rfl⟩ | ⟨-, -, rfl⟩
  case inr.inr.inr.inr => exact nofun
  all_goals exact hs

/-- EX and ID move the pair in DE and FD on to EM and DE together, so the distance FD kept becomes DE's. -/
theorem decodeStage_execute_deSpaced {s s3 : State} (h : decodeStage (execute s) = .ok s3) (hs : FdSpaced s) :
    DeSpaced s3 := by
  rcases execute_cases s with ⟨-, hex⟩ | ⟨hde, hex⟩ <;> rw [hex] at h <;>
    rcases decodeStage_cases h with ⟨-, rfl⟩ | ⟨d, hfd, hd, rfl⟩
  · exact nofun
  · exact nofun
  · exact fun _ _ => nofun
  · exact fun _ hlw _ => (fillerOk_iff hd).mp (hs hde hlw hfd)

theorem decodeStage_rs2_of_lw {s s3 : State} (h : decodeStage s = .ok s3) (hv : s3.de.valid = true)
    (hop : s3.de.dec.op = .lw) : s3.de.dec.rs2 = 0 := by
  rcases decodeStage_cases h with ⟨-, rfl⟩ | ⟨d, -, hd, rfl⟩
  · cases hv
  · exact rs2_of_decoded_lw hd hop

/-- The stall keeps the dependent instruction out of FD. The bubble it leaves reads register 0 like the second source
of the LW it replaces, so it too is clear of a LW in EM. -/
theorem stallOrFetch_spaced {port : Raw} {s s4 : State} {b : Bool} (h : stallOrFetch port s = .ok (s4, b))
    (hs : DeSpaced s) (hrs2 : s.de.valid = true → s.de.dec.op = .lw → s.de.dec.rs2 = 0) : LoadsSpaced s4 := by
  rcases stallOrFetch_cases h with ⟨d, -, hlu, rfl, -⟩ | ⟨-, rfl, -⟩ | ⟨d, hd, hlu, rfl, -⟩
  case inl =>
    obtain ⟨hde, hop, -⟩ := loadUse_some.mp hlu
    refine ⟨fun _ => nofun, fun hem hlw _ => ?_⟩
    obtain ⟨-, hne⟩ := hs hem hlw hde
    rw [hrs2 hde hop] at hne
    exact ⟨hne, hne⟩
  case inr.inl => exact ⟨fun _ _ => nofun, hs⟩
  case inr.inr =>
    refine ⟨fun hde hlw _ => (fillerOk_iff hd).mpr ⟨fun h1 => ?_, fun h2 => ?_⟩, hs⟩
    · exact absurd (loadUse_some.mpr ⟨hde, hlw, .inl h1.symm⟩) (by simp [hlu])
    · exact absurd (loadUse_some.mpr ⟨hde, hlw, .inr h2.symm⟩) (by simp [hlu])

theorem subSteps_spaced {port : Raw} {s s4 : State} {b : Bool} (h : subSteps port s = .ok (s4, b))
    (hs : LoadsSpaced s) : LoadsSpaced s4 := by
  obtain ⟨s1, s3, h1, h3, -, h4⟩ := subSteps_cases h
  have hwb : FdSpaced (writeback s) := by rw [writeback_eq]; exact (loadsSpaced_iff.mp hs).1
  have hmem : FdSpaced s1 := memory_fdSpaced h1 hwb
  have hfwd : FdSpaced (forward s1) := hmem
  exact stallOrFetch_spaced h4 (decodeStage_execute_deSpaced h3 hfwd) (decodeStage_rs2_of_lw h3)

/-! ### `still_active` (R160, R168) -/

/-- A stall leaves DE valid and a fetch FD; only the fetch of the sentinel asks the other latches. -/
theorem endCycle_stillActive_eq_anyValid {port : Raw} {s s4 : State} {b : Bool}
    (h : stallOrFetch port s = .ok (s4, b)) : (s4.endCycle b).stillActive = anyValid (s4.endCycle b) := by
  rcases stallOrFetch_cases h with ⟨d, -, hlu, rfl, rfl⟩ | ⟨-, rfl, rfl⟩ | ⟨d, -, -, rfl, rfl⟩
  · obtain ⟨hde, -⟩ := loadUse_some.mp hlu
    simp [anyValid, hde]
  · simp [anyValid, Bool.or_assoc]
  · simp [anyValid]

theorem quiet_stillActive_eq_anyValid {port : Raw} {s s4 : State} {b : Bool} (h : subSteps port s = .ok (s4, b)) :
    (s4.endCycle b).stillActive = anyValid (s4.endCycle b) := by
  obtain ⟨s1, s3, -, -, -, h4⟩ := subSteps_cases h
  exact endCycle_stillActive_eq_anyValid h4

/-! ### The whole invariant -/

theorem endCycle_inv {port : Raw} {s s4 : State} {b : Bool} (h : subSteps port s = .ok (s4, b))
    (hf : s.fault = false) (hs : Inv s) : Inv (s4.endCycle b) := by
  obtain ⟨hwf, haligned, hdecoded, hspaced, ⟨hrecord, -⟩, -⟩ := hs
  have hwf4 : Memory.wf s4.mem = true := subSteps_wf h hwf
  have haligned4 : AddressesAligned s4 := subSteps_aligned h haligned
  have hdecoded4 : LatchesDecoded s4 := subSteps_decoded h hdecoded
  have hspaced4 : LoadsSpaced s4 := subSteps_spaced h hspaced
  have hf4 : s4.fault = false := (subSteps_fault h).trans hf
  have hrecord4 : s4.fault = s4.faultInfo.isSome := by rw [subSteps_fault h, subSteps_faultInfo h, hrecord]
  have hactive := quiet_stillActive_eq_anyValid h
  exact ⟨hwf4, haligned4, hdecoded4, hspaced4, ⟨hrecord4, fun ht => absurd (hf4.symm.trans ht) (by simp)⟩,
    fun _ => ⟨fun hany => hactive.trans hany, fun hact => .inl (hactive.symm.trans hact)⟩⟩

/-- A fault writes the record and `still_active` and leaves the memory and the latches as the cycle found them. -/
theorem takeFault_inv {s : State} (r : Raise) (hs : Inv s) : Inv (s.takeFault r) := by
  obtain ⟨hwf, haligned, hdecoded, hspaced, -, -⟩ := hs
  exact ⟨hwf, haligned, hdecoded, hspaced, ⟨rfl, fun _ => rfl⟩, nofun⟩

/-- Settles O45: a cycle leaves a halted block alone, ends quietly, or records a fault, and each keeps `Inv`. -/
theorem cycleKeepsInv : Obligations.CycleKeepsInv := by
  intro s t hs hcyc
  obtain ⟨port, hadv⟩ := advance_of_cycleTo hcyc
  rcases advance_next hadv with ⟨-, rfl⟩ | ⟨hf, s4, b, hsub, rfl⟩ | ⟨-, r, -, rfl⟩
  · exact hs
  · exact endCycle_inv hsub hf hs
  · exact takeFault_inv r hs

end Sys2Proof.Machine

/-! PROOFS. The don't-care fields of the latches (10_state.md R42): every sub-step takes two states that agree but
for them to two such states, or to the same abort, and so does a cycle and a run. -/

namespace Sys2Proof.Machine

/-! ### Latches with equal views -/

theorem fdView_eq_iff {l l' : Latch} :
    l.fdView = l'.fdView ↔ l.valid = l'.valid ∧ (l.valid = true → l.raw = l'.raw ∧ l.pc = l'.pc) := by
  cases h : l.valid <;> cases h' : l'.valid <;> simp [Latch.fdView, h, h']

theorem deView_eq_iff {l l' : Latch} :
    l.deView = l'.deView ↔
      l.valid = l'.valid ∧ (l.valid = true → l.raw = l'.raw ∧ l.dec = l'.dec ∧ l.pc = l'.pc) := by
  cases h : l.valid <;> cases h' : l'.valid <;> simp [Latch.deView, h, h']

theorem emView_eq_iff {l l' : Latch} :
    l.emView = l'.emView ↔
      l.valid = l'.valid ∧ (l.valid = true → l.raw = l'.raw ∧ l.dec = l'.dec ∧ l.pc = l'.pc ∧ l.alu = l'.alu) := by
  cases h : l.valid <;> cases h' : l'.valid <;> simp [Latch.emView, h, h']

/-- The loaded word is looked at only in a latch with a LW (R41). -/
theorem mwView_eq_iff {l l' : Latch} :
    l.mwView = l'.mwView ↔
      l.valid = l'.valid ∧ (l.valid = true → l.raw = l'.raw ∧ l.dec = l'.dec ∧ l.pc = l'.pc ∧ l.alu = l'.alu ∧
        (l.dec.op = .lw → l.mdata = l'.mdata)) := by
  cases h : l.valid <;> cases h' : l'.valid
  case true.true =>
    by_cases hdec : l.dec = l'.dec
    · by_cases hop : l'.dec.op = .lw <;> simp [Latch.mwView, h, h', hdec, hop]
    · simp [Latch.mwView, h, h', hdec]
  all_goals simp [Latch.mwView, h, h']

/-! ### States that agree but for don't-care fields -/

/-- `SameButDontCare`, one field of the state at a time. -/
structure Alike (s s' : State) : Prop where
  regs : s.regs = s'.regs
  mem : s.mem = s'.mem
  pc : s.pc = s'.pc
  fd : s.fd.fdView = s'.fd.fdView
  de : s.de.deView = s'.de.deView
  em : s.em.emView = s'.em.emView
  mw : s.mw.mwView = s'.mw.mwView
  fault : s.fault = s'.fault
  faultInfo : s.faultInfo = s'.faultInfo
  cycle : s.cycle = s'.cycle
  stillActive : s.stillActive = s'.stillActive
  prog : s.prog = s'.prog

theorem sameButDontCare_iff_alike {s s' : State} : SameButDontCare s s' ↔ Alike s s' := by
  constructor
  · rintro ⟨hview, hfault, hinfo, hcycle, hprog⟩
    obtain ⟨hregs, hmem, hpc, hfd, hde, hem, hmw, hact⟩ := View.mk.inj hview
    exact ⟨hregs, hmem, hpc, hfd, hde, hem, hmw, hfault, hinfo, hcycle, hact, hprog⟩
  · rintro ⟨hregs, hmem, hpc, hfd, hde, hem, hmw, hfault, hinfo, hcycle, hact, hprog⟩
    refine ⟨?_, hfault, hinfo, hcycle, hprog⟩
    simp only [State.view, hregs, hmem, hpc, hfd, hde, hem, hmw, hact]

section
variable {s s' : State}

theorem Alike.fd_valid (h : Alike s s') : s.fd.valid = s'.fd.valid := (fdView_eq_iff.mp h.fd).1
theorem Alike.de_valid (h : Alike s s') : s.de.valid = s'.de.valid := (deView_eq_iff.mp h.de).1
theorem Alike.em_valid (h : Alike s s') : s.em.valid = s'.em.valid := (emView_eq_iff.mp h.em).1
theorem Alike.mw_valid (h : Alike s s') : s.mw.valid = s'.mw.valid := (mwView_eq_iff.mp h.mw).1

theorem Alike.fd_fields (h : Alike s s') (hv : s.fd.valid = true) : s.fd.raw = s'.fd.raw ∧ s.fd.pc = s'.fd.pc :=
  (fdView_eq_iff.mp h.fd).2 hv

theorem Alike.de_fields (h : Alike s s') (hv : s.de.valid = true) :
    s.de.raw = s'.de.raw ∧ s.de.dec = s'.de.dec ∧ s.de.pc = s'.de.pc :=
  (deView_eq_iff.mp h.de).2 hv

theorem Alike.em_fields (h : Alike s s') (hv : s.em.valid = true) :
    s.em.raw = s'.em.raw ∧ s.em.dec = s'.em.dec ∧ s.em.pc = s'.em.pc ∧ s.em.alu = s'.em.alu :=
  (emView_eq_iff.mp h.em).2 hv

theorem Alike.readReg (h : Alike s s') (r : RegIx) : s.readReg r = s'.readReg r := by
  simp [State.readReg, h.regs]

theorem Alike.progAt (h : Alike s s') (a : Word) : s.progAt a = s'.progAt a := by
  simp [State.progAt, h.prog]

end

/-- Two sub-steps that answer related results, or stop for the same reason. -/
inductive Agree {α : Type} (R : α → α → Prop) : Except Abort α → Except Abort α → Prop where
  | ok {a a' : α} (h : R a a') : Agree R (.ok a) (.ok a')
  | error (e : Abort) : Agree R (.error e) (.error e)

/-! ### WB -/

theorem mwResult_congr {l l' : Latch} (hdec : l.dec = l'.dec) (halu : l.alu = l'.alu)
    (hmdata : l.dec.op = .lw → l.mdata = l'.mdata) : mwResult l = mwResult l' := by
  cases hop : l.dec.op with
  | lw => simpa [mwResult, ← hdec, hop] using hmdata hop
  | _ => simp [mwResult, ← hdec, hop, halu]

theorem nsX1_alike {s s' : State} (h : Alike s s') : nsX1 s = nsX1 s' := by
  obtain ⟨hvalid, hfields⟩ := mwView_eq_iff.mp h.mw
  cases hv : s.mw.valid with
  | false => rw [nsX1_of_invalid hv, nsX1_of_invalid (hvalid ▸ hv), h.regs]
  | true =>
    obtain ⟨-, hdec, -, halu, hmdata⟩ := hfields hv
    simp [nsX1, ← hvalid, hv, mwResult_congr hdec halu hmdata, hdec, h.regs]

theorem writeback_alike {s s' : State} (h : Alike s s') : Alike (writeback s) (writeback s') := by
  rw [writeback_eq, writeback_eq]
  exact { h with regs := nsX1_alike h }

/-! ### MEM -/

theorem takesBranch_alike {s s' : State} (h : Alike s s') : takesBranch s = takesBranch s' := by
  cases hv : s.em.valid with
  | false => simp [takesBranch, ← h.em_valid, hv]
  | true =>
    obtain ⟨-, hdec, -, halu⟩ := h.em_fields hv
    simp [takesBranch, ← h.em_valid, hdec, halu]

theorem op_ne_lw_of_takesBranch {s : State} (h : takesBranch s = true) : s.em.dec.op ≠ .lw := by
  intro hop
  simp [takesBranch, branchTaken, hop] at h

/-- Without a LW in EM the loaded word that MW keeps is a don't-care field. -/
theorem copyToMW_alike {s s' : State} (h : Alike s s') (hv : s.em.valid = true) (hop : s.em.dec.op ≠ .lw) :
    Alike s.copyToMW s'.copyToMW := by
  obtain ⟨hraw, hdec, hpc, halu⟩ := h.em_fields hv
  exact { h with mw := mwView_eq_iff.mpr ⟨rfl, fun _ => ⟨hraw, hdec, hpc, halu, fun hlw => absurd hlw hop⟩⟩ }

theorem load_alike {s s' : State} (h : Alike s s') (hv : s.em.valid = true) :
    Alike (s.copyToMW.setMdata (Memory.read s.mem (wordIndex s.em.alu)))
      (s'.copyToMW.setMdata (Memory.read s'.mem (wordIndex s'.em.alu))) := by
  obtain ⟨hraw, hdec, hpc, halu⟩ := h.em_fields hv
  have hword : Memory.read s.mem (wordIndex s.em.alu) = Memory.read s'.mem (wordIndex s'.em.alu) := by
    rw [h.mem, halu]
  exact { h with mw := mwView_eq_iff.mpr ⟨rfl, fun _ => ⟨hraw, hdec, hpc, halu, fun _ => hword⟩⟩ }

theorem store_alike {s s' : State} (h : Alike s s') (hv : s.em.valid = true) (hop : s.em.dec.op = .sw) :
    Alike (s.copyToMW.writeWord (wordIndex s.em.alu) (s.readReg s.em.dec.rs2))
      (s'.copyToMW.writeWord (wordIndex s'.em.alu) (s'.readReg s'.em.dec.rs2)) := by
  obtain ⟨-, hdec, -, halu⟩ := h.em_fields hv
  exact { copyToMW_alike h hv (by simp [hop]) with mem := by simp [h.mem, h.readReg, halu, hdec] }

theorem redirect_alike {s s' : State} (h : Alike s s') (ht : takesBranch s = true) :
    Alike (s.copyToMW.setPc (u32 (branchTarget s.em.pc s.em.dec.imm))).flush
      (s'.copyToMW.setPc (u32 (branchTarget s'.em.pc s'.em.dec.imm))).flush := by
  have hv := em_valid_of_takesBranch ht
  obtain ⟨-, hdec, hpc, -⟩ := h.em_fields hv
  exact { copyToMW_alike h hv (op_ne_lw_of_takesBranch ht) with
    pc := by simp [hdec, hpc]
    fd := by simp [Latch.fdView]
    de := by simp [Latch.deView]
    em := by simp [Latch.emView] }

theorem memory_alike {s s' : State} (h : Alike s s') : Agree Alike (memory s) (memory s') := by
  have hvalid := h.em_valid
  have htaken := takesBranch_alike h
  cases hm : memory s with
  | ok s1 =>
    rcases memory_cases hm with ⟨hv, rfl⟩ | ⟨hv, hlw, hsw, ht, rfl⟩ | ⟨hv, hop, hlt, rfl⟩ | ⟨hv, hop, hlt, rfl⟩ |
      ⟨ht, hok, rfl⟩
    · rw [memory_invalid (hvalid ▸ hv)]
      exact .ok { h with mw := rfl }
    · obtain ⟨-, hdec, -, -⟩ := h.em_fields hv
      rw [memory_plain (hvalid ▸ hv) (hdec ▸ hlw) (hdec ▸ hsw) (htaken ▸ ht)]
      exact .ok (copyToMW_alike h hv hlw)
    · obtain ⟨-, hdec, -, halu⟩ := h.em_fields hv
      rw [memory_load (hvalid ▸ hv) (hdec ▸ hop) (halu ▸ hlt)]
      exact .ok (load_alike h hv)
    · obtain ⟨-, hdec, -, halu⟩ := h.em_fields hv
      rw [memory_store (hvalid ▸ hv) (hdec ▸ hop) (halu ▸ hlt)]
      exact .ok (store_alike h hv hop)
    · obtain ⟨-, hdec, hpc, -⟩ := h.em_fields (em_valid_of_takesBranch ht)
      rw [memory_taken (htaken ▸ ht) (hdec ▸ hpc ▸ hok)]
      exact .ok (redirect_alike h ht)
  | error a =>
    rcases memory_error hm with ⟨hv, hop, hle, rfl⟩ | ⟨ht, hbad, rfl⟩
    · obtain ⟨-, hdec, hpc, halu⟩ := h.em_fields hv
      rw [memory_bounds (hvalid ▸ hv) (hdec ▸ hop) (halu ▸ Nat.not_lt_of_le hle), hpc, halu]
      exact .error _
    · obtain ⟨-, hdec, hpc, -⟩ := h.em_fields (em_valid_of_takesBranch ht)
      rw [memory_badTarget (htaken ▸ ht) (hdec ▸ hpc ▸ hbad), hpc, hdec]
      exact .error _

/-! ### FWD and EX -/

theorem mwForwards_of_invalid {l : Latch} (h : l.valid = false) (r : RegIx) : mwForwards l r = false := by
  simp [mwForwards, h]

theorem emForwards_of_invalid {l : Latch} (h : l.valid = false) (r : RegIx) : emForwards l r = false := by
  simp [emForwards, h]

/-- The arbiter reads the latches MW and EM only where they are valid (R190). -/
theorem fwdSelect_congr {mw mw' em em' : Latch} (hmw : mw.mwView = mw'.mwView) (hem : em.emView = em'.emView)
    (r : RegIx) : fwdSelect mw em r = fwdSelect mw' em' r := by
  obtain ⟨hmwv, hmwf⟩ := mwView_eq_iff.mp hmw
  obtain ⟨hemv, hemf⟩ := emView_eq_iff.mp hem
  have hrule2 : (if emForwards em r then { sel := .fromEM, val := em.alu } else FwdSlot.none) =
      (if emForwards em' r then { sel := .fromEM, val := em'.alu } else FwdSlot.none) := by
    cases hv : em.valid with
    | false => rw [emForwards_of_invalid hv, emForwards_of_invalid (hemv ▸ hv)]; rfl
    | true =>
      obtain ⟨-, hdec, -, halu⟩ := hemf hv
      simp [emForwards, ← hemv, hdec, halu]
  rw [fwdSelect, fwdSelect, hrule2]
  cases hv : mw.valid with
  | false => rw [mwForwards_of_invalid hv, mwForwards_of_invalid (hmwv ▸ hv)]; rfl
  | true =>
    obtain ⟨-, hdec, -, halu, hmdata⟩ := hmwf hv
    simp [mwForwards, ← hmwv, mwResult_congr hdec halu hmdata, hdec]

theorem forward_alike {s s' : State} (h : Alike s s') : Alike (forward s) (forward s') :=
  { h with de := h.de }

theorem operand_alike {s s' : State} (h : Alike s s') (slot : FwdSlot) (r : RegIx) :
    operand slot r s = operand slot r s' := by
  cases hsel : slot.sel <;> simp [operand, hsel, h.readReg]

/-- FWD fills the slots in the same cycle in which EX reads them, so their old values do not matter (R146). -/
theorem executeResult_forward_alike {s s' : State} (h : Alike s s') (hv : s.de.valid = true) :
    executeResult (forward s) = executeResult (forward s') := by
  obtain ⟨-, hdec, -⟩ := h.de_fields hv
  have hdec1 : (forward s).de.dec = (forward s').de.dec := hdec
  have hA : (forward s).de.fwdA = (forward s').de.fwdA := by simp [forward, hdec, fwdSelect_congr h.mw h.em]
  have hB : (forward s).de.fwdB = (forward s').de.fwdB := by simp [forward, hdec, fwdSelect_congr h.mw h.em]
  simp only [executeResult, operand_alike (forward_alike h), hdec1, hA, hB]

theorem execute_forward_alike {s s' : State} (h : Alike s s') :
    Alike (execute (forward s)) (execute (forward s')) := by
  have hfwd := forward_alike h
  rcases execute_cases (forward s) with ⟨hv, hex⟩ | ⟨hv, hex⟩
  · rw [hex, execute_invalid (hfwd.de_valid ▸ hv)]
    exact { hfwd with em := rfl }
  · obtain ⟨hraw, hdec, hpc⟩ := hfwd.de_fields hv
    rw [hex, execute_valid (hfwd.de_valid ▸ hv)]
    exact { hfwd with
      em := emView_eq_iff.mpr ⟨rfl, fun _ => ⟨hraw, hdec, hpc, executeResult_forward_alike h hv⟩⟩ }

/-! ### ID and STALL_IF -/

theorem decodeStage_alike {s s' : State} (h : Alike s s') : Agree Alike (decodeStage s) (decodeStage s') := by
  cases hm : decodeStage s with
  | ok s1 =>
    rcases decodeStage_cases hm with ⟨hv, rfl⟩ | ⟨d, hv, hd, rfl⟩
    · rw [decodeStage_invalid (h.fd_valid ▸ hv)]
      exact .ok { h with de := rfl }
    · obtain ⟨hraw, hpc⟩ := h.fd_fields hv
      rw [decodeStage_valid (h.fd_valid ▸ hv) (hraw ▸ hd)]
      exact .ok { h with de := deView_eq_iff.mpr ⟨rfl, fun _ => ⟨hraw, rfl, hpc⟩⟩ }
  | error a =>
    obtain ⟨e, hv, hd, rfl⟩ := decodeStage_error hm
    obtain ⟨hraw, hpc⟩ := h.fd_fields hv
    have hm' : decodeStage s' = .error (decodeAbort s.fd.pc e) := by
      simp [decodeStage, ← h.fd_valid, hv, ← hraw, hd, hpc]
    rw [hm']
    exact .error _

theorem peek_alike {s s' : State} (h : Alike s s') (port : Raw) : peek port s = peek port s' := by
  simp [peek, h.pc]

theorem loadUse_alike {s s' : State} (h : Alike s s') (nd : Option Decoded) :
    loadUse s.de nd = loadUse s'.de nd := by
  cases hv : s.de.valid with
  | false => cases nd <;> simp [loadUse, ← h.de_valid, hv]
  | true =>
    obtain ⟨-, hdec, -⟩ := h.de_fields hv
    cases nd <;> simp [loadUse, ← h.de_valid, hdec]

theorem insertBubble_alike {s s' : State} (h : Alike s s') : Alike s.insertBubble s'.insertBubble := by
  refine { h with de := deView_eq_iff.mpr ⟨h.de_valid, fun hv => ?_⟩ }
  obtain ⟨hraw, -, hpc⟩ := h.de_fields hv
  exact ⟨hraw, rfl, hpc⟩

theorem fetch_alike {s s' : State} (h : Alike s s') (port : Raw) : Alike (s.fetch port) (s'.fetch port) :=
  { h with pc := congrArg nextLine h.pc, fd := fdView_eq_iff.mpr ⟨rfl, fun _ => ⟨rfl, h.pc⟩⟩ }

theorem stallOrFetch_alike {s s' : State} (h : Alike s s') (port : Raw) :
    Agree (fun p p' => Alike p.1 p'.1 ∧ p.2 = p'.2) (stallOrFetch port s) (stallOrFetch port s') := by
  unfold stallOrFetch
  rw [← peek_alike h]
  cases peek port s with
  | error e => exact .error e
  | ok nd =>
    simp only [← loadUse_alike h]
    split
    · exact .ok ⟨insertBubble_alike h, rfl⟩
    · cases nd with
      | none => exact .ok ⟨{ h with fd := rfl }, rfl⟩
      | some d => exact .ok ⟨fetch_alike h port, rfl⟩

/-! ### A cycle and a run -/

theorem beforeFetch_alike {s s' : State} (h : Alike s s') : Agree Alike (beforeFetch s) (beforeFetch s') := by
  have hmem := memory_alike (writeback_alike h)
  unfold beforeFetch
  generalize memory (writeback s) = x, memory (writeback s') = x' at hmem
  cases hmem with
  | ok h1 => exact decodeStage_alike (execute_forward_alike h1)
  | error e => exact .error e

theorem subSteps_alike {s s' : State} (h : Alike s s') (port : Raw) :
    Agree (fun p p' => Alike p.1 p'.1 ∧ p.2 = p'.2) (subSteps port s) (subSteps port s') := by
  have hbf := beforeFetch_alike h
  unfold subSteps
  generalize beforeFetch s = x, beforeFetch s' = x' at hbf
  cases hbf with
  | ok h3 => exact stallOrFetch_alike h3 port
  | error e => exact .error e

theorem endCycle_alike {s s' : State} (h : Alike s s') (b : Bool) : Alike (s.endCycle b) (s'.endCycle b) :=
  { h with
    cycle := congrArg (· + 1) h.cycle
    stillActive := by simp [h.de_valid, h.em_valid, h.mw_valid] }

theorem takeFault_alike {s s' : State} (h : Alike s s') (r : Raise) : Alike (s.takeFault r) (s'.takeFault r) :=
  { h with
    cycle := congrArg (· + 1) h.cycle
    fault := rfl
    faultInfo := by simp [h.cycle]
    stillActive := rfl }

/-- The outcomes of two cycles or runs: next states that are alike, or the same fault. -/
inductive OutcomesAlike :
    Host.Outcome State Fault Refusal → Host.Outcome State Fault Refusal → Prop where
  | next {t t' : State} (h : Alike t t') : OutcomesAlike (.next t) (.next t')
  | fault (f : Fault) : OutcomesAlike (.fault f) (.fault f)

theorem advance_alike {s s' : State} (h : Alike s s') (port : Raw) :
    OutcomesAlike (advance port s) (advance port s') := by
  have hsub := subSteps_alike h port
  unfold advance
  rw [← h.fault]
  generalize subSteps port s = x, subSteps port s' = x' at hsub
  split
  · exact .next h
  · cases hsub with
    | @ok p p' h4 =>
      obtain ⟨⟨s4, b⟩, s4', b'⟩ := p, p'
      obtain ⟨h4, rfl⟩ := h4
      exact .next (endCycle_alike h4 b)
    | error e =>
      cases e with
      | raise r => exact .next (takeFault_alike h r)
      | undefined f => exact .fault f

theorem fetchRaw_alike {s s' : State} (h : Alike s s') : fetchRaw s = fetchRaw s' := by
  have haddr : fetchAddr s = fetchAddr s' := by
    have hmem := memory_alike (writeback_alike h)
    unfold fetchAddr
    generalize memory (writeback s) = x, memory (writeback s') = x' at hmem
    cases hmem with
    | ok h1 => exact h1.pc
    | error e => exact h.pc
  rw [fetchRaw, fetchRaw, haddr, h.progAt]

theorem step_alike {s s' : State} (h : Alike s s') : OutcomesAlike (step s) (step s') := by
  rw [step_eq_advance, step_eq_advance, fetchRaw_alike h]
  exact advance_alike h _

theorem runs_succ_fault {n : Nat} {s : State} {f : Fault} (h : step s = .fault f) : runs (n + 1) s = .fault f := by
  have hs : Sys2Proof.core.step s = .fault f := h
  have hrun : Sys2Proof.core.run (n + 1) s = .fault f :=
    (Host.Core.run.eq_2 Sys2Proof.core s n).trans (by rw [hs])
  exact hrun

theorem runs_alike {s s' : State} (h : Alike s s') (n : Nat) : OutcomesAlike (runs n s) (runs n s') := by
  induction n generalizing s s' with
  | zero => exact .next h
  | succ n ih =>
    have hstep := step_alike h
    generalize hx : step s = x, hx' : step s' = x' at hstep
    cases hstep with
    | next ht => rw [runs_succ hx, runs_succ hx']; exact ih ht
    | fault f => rw [runs_succ_fault hx, runs_succ_fault hx']; exact .fault f

/-- Settles O51: a run takes alike states to alike outcomes, by induction on its cycles. -/
theorem invalidLatchFieldsUnobservable : Obligations.InvalidLatchFieldsUnobservable := by
  intro s s' n hs
  have hruns := runs_alike (sameButDontCare_iff_alike.mp hs) n
  generalize runs n s = x, runs n s' = x' at hruns
  cases hruns with
  | @next t t' ht =>
    refine ⟨fun u hu => ?_, fun f hf => nomatch hf⟩
    cases hu
    exact ⟨t', rfl, sameButDontCare_iff_alike.mpr ht⟩
  | fault f => exact ⟨fun u hu => (nomatch hu), fun _ hf => hf⟩

end Sys2Proof.Machine

/-! PROOFS. The two memories of 20_memory.md (R70 to R80): the canonical form of the data memory is unique, a cycle writes
the data word its store names and no other, and the next step runs the program line stored for it. -/

namespace Sys2Proof.Machine

/-! ### The canonical form is unique (R70, R73) -/

theorem read_cons_same (j : Nat) (w : Word) (m : Memory) : Memory.read ((j, w) :: m) j = w := by simp [Memory.read]

theorem read_cons_of_ne {j k : Nat} (w : Word) (m : Memory) (h : j ≠ k) :
    Memory.read ((j, w) :: m) k = Memory.read m k := by
  simp [Memory.read, h]

theorem le_of_read_ne_zero {m : Memory} {lo k : Nat} (hm : Memory.wfFrom lo m = true) (hk : Memory.read m k ≠ 0) :
    lo ≤ k := by
  by_contra hlt
  exact hk (read_below hm (by omega))

/-- The first entry of a canonical memory is a word that does not read as 0, so another one with the same words starts
no later. -/
theorem first_index_le {lo lo' j j' : Nat} {w w' : Word} {m m' : Memory}
    (hm : Memory.wfFrom lo ((j, w) :: m) = true) (hm' : Memory.wfFrom lo' ((j', w') :: m') = true)
    (hread : Memory.read ((j, w) :: m) j = Memory.read ((j', w') :: m') j) : j' ≤ j := by
  obtain ⟨-, -, hw, -⟩ := wfFrom_cons.mp hm
  obtain ⟨-, htail'⟩ := wfFrom_cons.mp hm'
  have hfrom : Memory.wfFrom j' ((j', w') :: m') = true := wfFrom_cons.mpr ⟨le_rfl, htail'⟩
  rw [read_cons_same] at hread
  exact le_of_read_ne_zero hfrom (hread ▸ hw)

theorem eq_nil_of_reads_zero {lo : Nat} {m : Memory} (hm : Memory.wfFrom lo m = true)
    (h : ∀ k, k < 16 → Memory.read m k = 0) : m = [] := by
  cases m with
  | nil => rfl
  | cons p m =>
    obtain ⟨j, w⟩ := p
    obtain ⟨-, hj, hw, -⟩ := wfFrom_cons.mp hm
    exact absurd ((read_cons_same j w m).symm.trans (h j hj)) hw

/-- The heads agree by `first_index_le` both ways; the tails then read alike, below the head's index as 0. -/
theorem wfFrom_ext {m m' : Memory} {lo lo' : Nat} (hm : Memory.wfFrom lo m = true) (hm' : Memory.wfFrom lo' m' = true)
    (h : ∀ k, k < 16 → Memory.read m k = Memory.read m' k) : m = m' := by
  induction m generalizing lo lo' m' with
  | nil => exact (eq_nil_of_reads_zero hm' fun k hk => (h k hk).symm).symm
  | cons p m ih =>
    cases m' with
    | nil => exact eq_nil_of_reads_zero hm h
    | cons p' m' =>
      obtain ⟨⟨j, w⟩, j', w'⟩ := p, p'
      obtain ⟨-, hj, -, htail⟩ := wfFrom_cons.mp hm
      obtain ⟨-, hj', -, htail'⟩ := wfFrom_cons.mp hm'
      obtain rfl : j = j' :=
        le_antisymm (first_index_le hm' hm (h j' hj').symm) (first_index_le hm hm' (h j hj))
      obtain rfl : w = w' := by simpa only [read_cons_same] using h j hj
      have htails : ∀ k, k < 16 → Memory.read m k = Memory.read m' k := fun k hk => by
        by_cases hkj : k ≤ j
        · rw [read_below htail (by omega), read_below htail' (by omega)]
        · simpa only [read_cons_of_ne _ _ (show j ≠ k by omega)] using h k hk
      rw [ih htail htail' htails]

/-- Settles O48: `wfFrom_ext` from index 0. -/
theorem canonicalMemoriesAreEqual : Obligations.CanonicalMemoriesAreEqual :=
  fun _ _ => wfFrom_ext

/-! ### A cycle and the data memory (R71, R74, R245) -/

/-- MEM of an instruction that is no SW leaves the data memory alone. -/
theorem memory_mem_of_not_store {s s1 : State} (h : memory s = .ok s1) (hno : s.em.valid = false ∨ s.em.dec.op ≠ .sw) :
    s1.mem = s.mem := by
  rcases memory_cases h with ⟨-, rfl⟩ | ⟨-, -, -, -, rfl⟩ | ⟨-, -, -, rfl⟩ | ⟨hv, hop, -, -⟩ | ⟨-, -, rfl⟩
  case inr.inr.inr.inl => simp [hv, hop] at hno
  all_goals rfl

/-- MEM of a SW that does not raise: its address is in range, and one word is written (R245). -/
theorem memory_of_store {s s1 : State} (h : memory s = .ok s1) (hv : s.em.valid = true) (hop : s.em.dec.op = .sw) :
    s.em.alu.toNat < 64 ∧ s1.mem = Memory.write s.mem (s.em.alu.toNat / 4) (s.readReg s.em.dec.rs2) := by
  rcases memory_cases h with ⟨hno, -⟩ | ⟨-, -, hno, -, -⟩ | ⟨-, hlw, -, -⟩ | ⟨-, -, hlt, rfl⟩ | ⟨ht, -, -⟩
  · simp [hv] at hno
  · exact absurd hop hno
  · simp [hop] at hlw
  · exact ⟨(wordIndex_lt_iff _).mp hlt, by rw [writeWord_mem, copyToMW_mem, wordIndex_eq]⟩
  · simp [takesBranch, branchTaken, hop] at ht

/-- After MEM no sub-step writes the data memory. -/
theorem subSteps_mem {port : Raw} {s s4 : State} {b : Bool} (h : subSteps port s = .ok (s4, b)) :
    ∃ s1, memory (writeback s) = .ok s1 ∧ s4.mem = s1.mem := by
  obtain ⟨s1, s3, h1, h3, -, h4⟩ := subSteps_cases h
  refine ⟨s1, h1, ?_⟩
  calc s4.mem = s3.mem := stallOrFetch_mem h4
    _ = (execute (forward s1)).mem := decodeStage_mem h3
    _ = s1.mem := by simp [forward]

/-- The data memory a quiet cycle leaves is the one its MEM leaves. -/
theorem quietCycle_mem {s t : State} (h : QuietCycle s t) :
    ∃ s1, memory (writeback s) = .ok s1 ∧ t.mem = s1.mem := by
  obtain ⟨hcyc, hs, ht⟩ := h
  obtain ⟨port, hadv⟩ := advance_of_cycleTo hcyc
  obtain ⟨s4, b, hsub, rfl⟩ := advance_quiet hadv hs ht
  obtain ⟨s1, h1, hmem⟩ := subSteps_mem hsub
  exact ⟨s1, h1, (endCycle_mem s4 b).trans hmem⟩

/-- A register read in MEM, after this cycle's WB, is the register the cycle leaves (R245). -/
theorem readReg_writeback_of_quietCycle {s t : State} (h : QuietCycle s t) (r : RegIx) :
    (writeback s).readReg r = t.readReg r := by
  simp [State.readReg, quietCycle_regs h]

/-- The byte view follows the word it lies in, in either byte order (R73). -/
theorem byteAt_congr {m m' : Memory} {a : Nat} (o : Config.ByteOrder)
    (h : Memory.read m (a / 4) = Memory.read m' (a / 4)) : Memory.byteAt o m a = Memory.byteAt o m' a := by
  simp only [Memory.byteAt, h]

/-- Settles O12: MEM alone writes the memory, at the one word `read_write` tells from the others. -/
theorem memoryChangesOnlyByTheStore : Obligations.MemoryChangesOnlyByTheStore := by
  intro s t hwf hq
  obtain ⟨s1, hmem, htmem⟩ := quietCycle_mem hq
  rw [htmem]
  refine ⟨fun hv hop => ?_, fun hno => ?_, memory_wf hmem (by simpa using hwf)⟩
  · obtain ⟨hlt, hwrite⟩ := memory_of_store hmem (by simpa using hv) (by simpa using hop)
    simp only [writeback_em, writeback_mem, readReg_writeback_of_quietCycle hq] at hlt hwrite
    have hread : ∀ k, Memory.read s1.mem k =
        if k = s.em.alu.toNat / 4 then t.readReg s.em.dec.rs2 else Memory.read s.mem k :=
      fun k => hwrite ▸ read_write _ _ k hwf
    exact ⟨hlt, hread, fun o a ha => byteAt_congr o ((hread _).trans (if_neg ha))⟩
  · simpa using memory_mem_of_not_store hmem (by simpa using hno)

/-! ### The line stored for the next step (R80, R102; log entries 4 and 6) -/

/-- Where a cycle reads the program source: the target of a taken branch that can be fetched, or the pc (R11). -/
theorem fetchAddr_eq (s : State) :
    fetchAddr s = if takesBranch s = true ∧ targetOk (branchTarget s.em.pc s.em.dec.imm) = true then
      u32 (branchTarget s.em.pc s.em.dec.imm) else s.pc := by
  split
  · next h => exact fetchAddr_of_takesBranch h.1 h.2
  · next h =>
    cases ht : takesBranch s with
    | false => exact fetchAddr_of_not_takesBranch ht
    | true =>
      have hbad : targetOk (branchTarget s.em.pc s.em.dec.imm) = false := by simpa [ht] using h
      exact fetchAddr_of_memory_error (memory_badTarget (s := writeback s) (by simpa using ht) (by simpa using hbad))

/-- The address does not depend on the program, so a line stored there is stored where the next step reads. -/
theorem fetchAddr_withLine (s : State) (n : Nat) (r : Raw) : fetchAddr (s.withLine n r) = fetchAddr s := by
  simp [fetchAddr_eq, takesBranch]

theorem fetchRaw_withFetchWord (s : State) (nbits w : Nat) : fetchRaw (s.withFetchWord nbits w) = tableRaw nbits w := by
  rw [fetchRaw, State.withFetchWord, fetchAddr_withLine, progAt_withLine, if_pos rfl]

theorem decode_of_decodeTableWord {nbits w : Nat} {i : Instr} (h : decodeTableWord nbits w = some i) :
    decode (tableRaw nbits w) = .ok i := by
  unfold decodeTableWord tableWord at h
  by_cases hlt : w % 2 ^ nbits < 2 ^ 100
  · simp only [hlt, if_true] at h
    split at h
    · next hd => cases h; exact hd
    · cases h
  · simp only [hlt, if_false] at h
    cases h

/-- Settles O7: the line read back is the table word's raw instruction, whose one decoding is `i`. -/
theorem fetchWordIsRunNext : Obligations.FetchWordIsRunNext := by
  intro s nbits w i h
  have hdec := decode_of_decodeTableWord h
  obtain ⟨henc, -⟩ := decode_cases hdec
  have hraw := fetchRaw_withFetchWord s nbits w
  exact ⟨hraw.trans henc.symm, step_eq_exec (hraw ▸ hdec)⟩

end Sys2Proof.Machine

/-! PROOFS. One instruction alone in the block (40_pipeline.md R165), from its fetch to the cycle in which its Memory
sub-step completes or raises, and from there to its retirement; with it LW and SW (43_loadstore.md R240 to R245). -/

namespace Sys2Proof.Machine

/-! ### From the fetch to EM -/

/-- A drained block after the cycle that fetched `i`: what `ExecFetchesIntoFD` states. -/
def State.fetched (s : State) (i : Instr) : State :=
  { s with
    fd := { s.fd with valid := true, raw := encode i, pc := s.pc }
    pc := s.pc + 4
    de := { s.de with fwdA := FwdSlot.none, fwdB := FwdSlot.none }
    cycle := s.cycle + 1
    stillActive := true }

theorem exec_drained {i : Instr} {s : State} (hdr : Drained s) (hwf : WellFormed i = true) :
    exec i s = .next (s.fetched i) :=
  execFetchesIntoFD i s hdr hwf

/-- The instruction `i`, fetched from the drained block `s`, stands alone in EM of `u` with its ALU result (R165). -/
structure AloneInEM (i : Instr) (s u : State) : Prop where
  regs : u.regs = s.regs
  mem : u.mem = s.mem
  pc : u.pc = s.pc + 4
  prog : u.prog = s.prog
  fault : u.fault = false
  faultInfo : u.faultInfo = s.faultInfo
  cycle : u.cycle = s.cycle + 3
  fd_valid : u.fd.valid = false
  de_valid : u.de.valid = false
  em_valid : u.em.valid = true
  em_raw : u.em.raw = encode i
  em_dec : u.em.dec = i.record
  em_pc : u.em.pc = s.pc
  em_alu : u.em.alu = alu i.record.op (s.readReg i.record.rs1) (s.readReg i.record.rs2) i.record.imm
  mw_valid : u.mw.valid = false

/-- Two cycles after its fetch, with the sentinel behind it, an instruction stands alone in EM. -/
theorem fetched_reaches_EM {i : Instr} {s : State} (hdr : Drained s) (hwf : WellFormed i = true)
    (hs : SentinelAt s (s.pc + 4)) : ∃ u, AloneInEM i s u ∧ ∀ n, runs (n + 2) (s.fetched i) = runs n u := by
  have hdec : decodeRecord (encode i) = .ok i.record := decodeRecord_of_decode (decode_encode hwf)
  obtain ⟨hfault, hfd, hde, hem, hmw⟩ := hdr
  have hs1 : SentinelAt (s.fetched i) (s.fetched i).pc := sentinelAt_of_prog_eq (t := s.fetched i) hs rfl
  obtain ⟨v, hv, vregs, vmem, vpc, vprog, vfault, vinfo, vcycle, vfd, vde, vraw, vdec, vaddr, vem, vmw⟩ :=
    step_alone_in_FD (s := s.fetched i) hfault rfl hde hem hmw hdec hs1
  obtain ⟨u, hu, uregs, umem, upc, uprog, ufault, uinfo, ucycle, ufd, ude, uem, uraw, udec, uaddr, umw, ualu⟩ :=
    step_alone_in_DE vfault vfd vde vem vmw (by rw [vpc]; exact sentinelAt_of_prog_eq hs1 vprog)
  have vread : ∀ r, v.readReg r = s.readReg r := fun r => by rw [State.readReg, State.readReg, vregs]; rfl
  refine ⟨u, ?_, fun n => (runs_succ hv).trans (runs_succ hu)⟩
  exact {
    regs := uregs.trans vregs
    mem := umem.trans vmem
    pc := upc.trans vpc
    prog := uprog.trans vprog
    fault := ufault
    faultInfo := uinfo.trans vinfo
    cycle := by rw [ucycle, vcycle]; rfl
    fd_valid := ufd
    de_valid := ude
    em_valid := uem
    em_raw := uraw.trans vraw
    em_dec := udec.trans vdec
    em_pc := uaddr.trans vaddr
    em_alu := by rw [ualu, vdec, vread, vread]
    mw_valid := umw }

theorem AloneInEM.readReg {i : Instr} {s u : State} (h : AloneInEM i s u) (r : RegIx) : u.readReg r = s.readReg r := by
  rw [State.readReg, State.readReg, h.regs]

/-- With nothing in MW, the cycle's WB does nothing before MEM. -/
theorem AloneInEM.writeback_eq_self {i : Instr} {s u : State} (h : AloneInEM i s u) : writeback u = u :=
  writeback_of_invalid h.mw_valid

/-! ### From EM to retirement -/

/-- A cycle that finds nothing behind EM, on the sentinel, keeps what MEM leaves in MW and empties the other latches. -/
theorem step_nothing_behind_EM {s s1 : State} (hf : s.fault = false) (h1 : memory (writeback s) = .ok s1)
    (hfd : s1.fd.valid = false) (hde : s1.de.valid = false) (hs : SentinelAt s s1.pc) :
    ∃ t, step s = .next t ∧ t.regs = s1.regs ∧ t.mem = s1.mem ∧ t.pc = s1.pc ∧ t.prog = s1.prog ∧
      t.fault = s1.fault ∧ t.faultInfo = s1.faultInfo ∧ t.cycle = s1.cycle + 1 ∧ t.fd.valid = false ∧
      t.de.valid = false ∧ t.em.valid = false ∧ t.mw = s1.mw := by
  have hb := beforeFetch_eq h1
  rw [execute_invalid (by simpa [forward] using hde), decodeStage_invalid (by simpa [forward] using hfd)] at hb
  have hport : decodeRecord (fetchRaw s) = .error .sentinel := by rw [fetchRaw_eq h1]; exact decodeRecord_sentinel hs
  refine ⟨_, (step_eq_advance s).trans (advance_sentinel hf hb hport), ?_⟩
  simp [forward]

theorem memory_cycle {s s1 : State} (h : memory s = .ok s1) : s1.cycle = s.cycle := by
  rcases memory_cases h with ⟨-, rfl⟩ | ⟨-, -, -, -, rfl⟩ | ⟨-, -, -, rfl⟩ | ⟨-, -, -, rfl⟩ | ⟨-, -, rfl⟩ <;> rfl

/-- An instruction alone in EM whose Memory sub-step ends in `s1` without a redirect: in the next cycle it is written back
from MW, and the block is drained. -/
theorem AloneInEM.retires {i : Instr} {s u s1 : State} (h : AloneInEM i s u) (hmem : memory u = .ok s1)
    (hfd : s1.fd = u.fd) (hde : s1.de = u.de) (hpc : s1.pc = u.pc) (hs : SentinelAt s (s.pc + 4)) :
    ∃ v, runs 2 u = .next v ∧ Drained v ∧ v.stillActive = false ∧ v.regs = nsX1 s1 ∧ v.mem = s1.mem ∧
      v.pc = s.pc + 4 ∧ v.cycle = s.cycle + 5 ∧ v.faultInfo = s.faultInfo := by
  obtain ⟨-, hfault, hinfo⟩ := memory_sameRegsAndRecord hmem
  have hsu : SentinelAt u s1.pc := by rw [hpc, h.pc]; exact sentinelAt_of_prog_eq hs h.prog
  obtain ⟨t, ht, tregs, tmem, tpc, tprog, tfault, tinfo, tcycle, tfd, tde, tem, tmw⟩ :=
    step_nothing_behind_EM h.fault (by rwa [h.writeback_eq_self]) (by rw [hfd, h.fd_valid]) (by rw [hde, h.de_valid]) hsu
  have hst : SentinelAt t t.pc := by rw [tpc]; exact sentinelAt_of_prog_eq hsu (tprog.trans (memory_prog hmem))
  obtain ⟨v, hv, vregs, vmem, vpc, -, vdrained, vactive, vinfo, vcycle⟩ :=
    step_alone_in_MW (tfault.trans (hfault.trans h.fault)) tfd tde tem hst
  refine ⟨v, (runs_succ ht).trans (runs_succ hv), vdrained, vactive, ?_, vmem.trans tmem, ?_, ?_, ?_⟩
  · simp only [vregs, nsX1, tmw, tregs]
  · calc v.pc = t.pc := vpc
      _ = s1.pc := tpc
      _ = s.pc + 4 := hpc.trans h.pc
  · rw [vcycle, tcycle, memory_cycle hmem, h.cycle]
  · calc v.faultInfo = t.faultInfo := vinfo
      _ = s1.faultInfo := tinfo
      _ = s.faultInfo := hinfo.trans h.faultInfo

/-! ### LW and SW (R240 to R245, R281) -/

/-- The effective address as R240 writes it: the base plus the signed offset, modulo 2^32. -/
theorem effectiveAddress_eq (base imm : Word) : effectiveAddress base imm = u32 (base.toNat + imm.toInt) := by
  rw [u32, BitVec.ofInt_add]
  simp [effectiveAddress]

theorem AloneInEM.bounds_raises {i : Instr} {s u : State} (h : AloneInEM i s u)
    (hop : i.record.op = .lw ∨ i.record.op = .sw) (hge : 64 ≤ u.em.alu.toNat) :
    step u = .next (u.takeFault (boundsError s.pc u.em.alu)) := by
  have hno : ¬ wordIndex u.em.alu < Config.dmemWords := by rw [wordIndex_lt_iff]; omega
  have hmem := memory_bounds h.em_valid (by rwa [h.em_dec]) hno
  rw [h.em_pc] at hmem
  rw [step_eq_advance]
  exact advance_raise_memory h.fault (by rwa [h.writeback_eq_self])

/-- MemoryBoundsError of a LW or SW fetched into a drained block: recorded in the fourth cycle, with nothing else of the
block changed since its fetch (R281). -/
theorem fetched_bounds_raises {i : Instr} {s : State} (hdr : Drained s) (hwf : WellFormed i = true)
    (hs : SentinelAt s (s.pc + 4)) (hop : i.record.op = .lw ∨ i.record.op = .sw) {ea : Word}
    (hea : alu i.record.op (s.readReg i.record.rs1) (s.readReg i.record.rs2) i.record.imm = ea)
    (hge : 64 ≤ ea.toNat) :
    ∃ t u, exec i s = .next t ∧ runs 3 t = .next u ∧ u.fault = true ∧
      u.faultInfo = some { code := .memoryBounds, reason := .none, cycle := s.cycle + 4, pc := s.pc, value := ea.toNat } ∧
      u.stillActive = false ∧ u.regs = s.regs ∧ u.mem = s.mem ∧ u.pc = s.pc + 4 ∧ u.cycle = s.cycle + 4 := by
  obtain ⟨u, h, hruns⟩ := fetched_reaches_EM hdr hwf hs
  have halu : u.em.alu = ea := h.em_alu.trans hea
  have hstep := h.bounds_raises hop (halu ▸ hge)
  rw [halu] at hstep
  refine ⟨_, _, exec_drained hdr hwf, (hruns 1).trans (runs_succ hstep), rfl, ?_, rfl, h.regs, h.mem, h.pc, ?_⟩
  · simp [boundsError, h.cycle]
  · simp [h.cycle]

/-- LW alone in EM, in bounds: MEM fills `MW.mdata`, WB writes it to `rd` (R241, R242). -/
theorem AloneInEM.load_retires {rd imm rs1 : Field} {s u : State} (h : AloneInEM (.lw rd imm rs1) s u)
    (hlt : u.em.alu.toNat < 64) (hs : SentinelAt s (s.pc + 4)) :
    ∃ v, runs 2 u = .next v ∧ Drained v ∧ v.stillActive = false ∧
      v.regs = s.regs.set (regIx rd).toNat (Memory.read s.mem (u.em.alu.toNat / 4)) (regIx rd).isLt ∧
      v.mem = s.mem ∧ v.pc = s.pc + 4 ∧ v.cycle = s.cycle + 5 ∧ v.faultInfo = s.faultInfo := by
  have hmem := memory_load h.em_valid (by rw [h.em_dec]; rfl) ((wordIndex_lt_iff _).mpr hlt)
  obtain ⟨v, hruns, hdr, hactive, hregs, hvmem, hrest⟩ := h.retires hmem rfl rfl rfl hs
  refine ⟨v, hruns, hdr, hactive, ?_, hvmem.trans h.mem, hrest⟩
  rw [hregs, nsX1_of_writesReg rfl (by simp [h.em_dec, Instr.record, writesReg])]
  simp [h.em_dec, h.regs, h.mem, Instr.record, mwResult, wordIndex_eq]

/-- SW alone in EM, in bounds: MEM writes `x[rs2]` to one word, WB writes nothing (R244, R245). -/
theorem AloneInEM.store_retires {rs2 imm rs1 : Field} {s u : State} (h : AloneInEM (.sw rs2 imm rs1) s u)
    (hlt : u.em.alu.toNat < 64) (hs : SentinelAt s (s.pc + 4)) :
    ∃ v, runs 2 u = .next v ∧ Drained v ∧ v.stillActive = false ∧ v.regs = s.regs ∧
      v.mem = Memory.write s.mem (u.em.alu.toNat / 4) (s.readReg (regIx rs2)) ∧
      v.pc = s.pc + 4 ∧ v.cycle = s.cycle + 5 ∧ v.faultInfo = s.faultInfo := by
  have hmem := memory_store h.em_valid (by rw [h.em_dec]; rfl) ((wordIndex_lt_iff _).mpr hlt)
  obtain ⟨v, hruns, hdr, hactive, hregs, hvmem, hrest⟩ := h.retires hmem rfl rfl rfl hs
  refine ⟨v, hruns, hdr, hactive, ?_, ?_, hrest⟩
  · rw [hregs, nsX1_of_not_writesReg (by simp [h.em_dec, Instr.record, writesReg])]
    exact h.regs
  · rw [hvmem, writeWord_mem, copyToMW_mem, h.mem, h.readReg, h.em_dec, wordIndex_eq]
    rfl

/-- Settles O40: the LW reaches EM with its effective address, and the bounds check there decides. -/
theorem lwCompletes : Obligations.LwCompletes := by
  intro rd imm rs1 s hdr hwf hs ea
  have hea : aluLw (s.readReg (regIx rs1)) imm = ea := effectiveAddress_eq _ _
  refine ⟨fun hlt => ?_, fun hge => fetched_bounds_raises hdr hwf hs (.inl rfl) hea hge⟩
  obtain ⟨u, h, hruns⟩ := fetched_reaches_EM hdr hwf hs
  have halu : u.em.alu = ea := h.em_alu.trans hea
  obtain ⟨v, hrun, hv⟩ := h.load_retires (halu ▸ hlt) hs
  rw [halu] at hv
  exact ⟨_, v, exec_drained hdr hwf, (hruns 2).trans hrun, hv⟩

/-- Settles O41: as O40, and `read_write` tells the word stored from the others. -/
theorem swCompletes : Obligations.SwCompletes := by
  intro rs2 imm rs1 s hdr hwf hs hmwf ea
  have hea : aluSw (s.readReg (regIx rs1)) imm = ea := effectiveAddress_eq _ _
  refine ⟨fun hlt => ?_, fun hge => fetched_bounds_raises hdr hwf hs (.inr rfl) hea hge⟩
  obtain ⟨u, h, hruns⟩ := fetched_reaches_EM hdr hwf hs
  have halu : u.em.alu = ea := h.em_alu.trans hea
  obtain ⟨v, hrun, hvdr, hactive, hregs, hmem, hrest⟩ := h.store_retires (halu ▸ hlt) hs
  rw [halu] at hmem
  have hread : ∀ k, Memory.read v.mem k =
      if k = ea.toNat / 4 then s.readReg (regIx rs2) else Memory.read s.mem k := fun k => hmem ▸ read_write _ _ k hmwf
  have hvwf : Memory.wf v.mem = true := hmem ▸ write_wf _ hmwf (by rw [Config.dmemWords]; omega)
  exact ⟨_, v, exec_drained hdr hwf, (hruns 2).trans hrun, hvdr, hactive, hread, hvwf, hregs, hrest⟩

end Sys2Proof.Machine

/-! PROOFS. The encoding (30_encoding.md R102 to R118): which tokens select an instruction, which raw instructions the
decoder rejects and why, where the fields of a decoded record come from, and the two encoders as inverses of `decode`. -/

namespace Sys2Proof

/-! ### The token selects the row (R102, R118) -/

theorem ofCode_eq_nop_iff (c : BitVec 4) : Token.ofCode c = .nop ↔ c = 7 := by
  revert c; decide

theorem ofCode_eq_unknown_iff (c : BitVec 4) : Token.ofCode c = .unknown ↔ 8 ≤ c.toNat := by
  revert c; decide

theorem tokenCode_lt (op : Op) : op.tokenCode.toNat < 7 := by cases op <;> decide

theorem select_eq_error_iff {r : Raw} {e : Reject} :
    r.select = .error e ↔ (r.tok = 7 ∧ e = .sentinel) ∨ (8 ≤ r.tok.toNat ∧ e = .unknownMnemonic r.tok) := by
  rw [← ofCode_eq_nop_iff, ← ofCode_eq_unknown_iff]
  cases htok : Token.ofCode r.tok <;> simp [Raw.select, htok, eq_comm]

theorem select_isOk_iff {r : Raw} : (∃ i, r.select = .ok i) ↔ r.tok.toNat < 7 := by
  constructor
  · rintro ⟨i, hi⟩
    rw [← encode_of_select hi, encode_tok]
    exact tokenCode_lt _
  · intro hlt
    cases hsel : r.select with
    | ok i => exact ⟨i, rfl⟩
    | error e =>
      rcases select_eq_error_iff.mp hsel with ⟨h7, -⟩ | ⟨h8, -⟩
      · simp [h7] at hlt
      · omega

/-! ### The check of the register-role fields (R112) -/

theorem regFieldOk_iff_toInt {f : Field} : regFieldOk f = true ↔ 0 ≤ f.toInt ∧ f.toInt ≤ 31 := by
  simp [regFieldOk]

theorem regFieldOk_eq_false_iff {f : Field} : regFieldOk f = false ↔ f.toInt < 0 ∨ 31 < f.toInt := by
  rw [← Bool.not_eq_true, regFieldOk_iff_toInt]
  omega

theorem wellFormed_iff {i : Instr} : WellFormed i = true ↔ ∀ f ∈ i.regFields, 0 ≤ f.toInt ∧ f.toInt ≤ 31 := by
  simp only [WellFormed, List.all_eq_true, regFieldOk_iff_toInt]

/-- The first bad field: it is out of range, and every register-role field before it is in range (R285 point 3). -/
theorem badField_eq_some_iff {i : Instr} {f : Field} :
    i.badField = some f ↔ ∃ before after, i.regFields = before ++ f :: after ∧ (f.toInt < 0 ∨ 31 < f.toInt) ∧
      ∀ g ∈ before, 0 ≤ g.toInt ∧ g.toInt ≤ 31 := by
  simp only [Instr.badField, List.find?_eq_some_iff_append, Bool.not_eq_true', Bool.not_not, regFieldOk_eq_false_iff,
    regFieldOk_iff_toInt]
  constructor
  · rintro ⟨hbad, before, after, hsplit, hok⟩
    exact ⟨before, after, hsplit, hbad, hok⟩
  · rintro ⟨before, after, hsplit, hbad, hok⟩
    exact ⟨hbad, before, after, hsplit, hok⟩

/-! ### What the decoder answers (R110) -/

/-- A rejection is the token's, or that of the first bad field of the instruction the token selects. -/
theorem decode_eq_error_iff {r : Raw} {e : Reject} :
    decode r = .error e ↔
      r.select = .error e ∨ ∃ i f, r.select = .ok i ∧ i.badField = some f ∧ e = .registerOutOfRange f := by
  cases hsel : r.select with
  | error e' => simp [decode, hsel]
  | ok i => cases hbad : i.badField <;> simp [decode, hsel, hbad, eq_comm]

theorem decode_eq_ok_iff {r : Raw} {i : Instr} : decode r = .ok i ↔ r.select = .ok i ∧ WellFormed i = true := by
  constructor
  · intro h
    obtain ⟨rfl, hwf⟩ := decode_cases h
    exact ⟨select_encode i, hwf⟩
  · rintro ⟨hsel, hwf⟩
    simp [decode, hsel, badField_eq_none.mpr hwf]

theorem decodeRecord_eq_error_iff {r : Raw} {e : Reject} : decodeRecord r = .error e ↔ decode r = .error e := by
  cases h : decode r <;> simp [decodeRecord, h]

theorem decodeRecord_isOk_iff {r : Raw} :
    (∃ d, decodeRecord r = .ok d) ↔ ∃ i, r.select = .ok i ∧ WellFormed i = true := by
  simp only [← decode_eq_ok_iff]
  constructor
  · rintro ⟨d, hd⟩
    obtain ⟨i, hi, -⟩ := decodeRecord_cases hd
    exact ⟨i, hi⟩
  · rintro ⟨i, hi⟩
    exact ⟨i.record, decodeRecord_of_decode hi⟩

theorem decodeRecord_eq_sentinel_iff {r : Raw} : decodeRecord r = .error .sentinel ↔ r.tok = 7 := by
  simp [decodeRecord_eq_error_iff, decode_eq_error_iff, select_eq_error_iff]

theorem decodeRecord_eq_unknown_iff {r : Raw} {c : BitVec 4} :
    decodeRecord r = .error (.unknownMnemonic c) ↔ 8 ≤ r.tok.toNat ∧ c = r.tok := by
  simp [decodeRecord_eq_error_iff, decode_eq_error_iff, select_eq_error_iff]

theorem decodeRecord_eq_outOfRange_iff {r : Raw} {f : Field} :
    decodeRecord r = .error (.registerOutOfRange f) ↔ ∃ i, r.select = .ok i ∧ i.badField = some f := by
  simp [decodeRecord_eq_error_iff, decode_eq_error_iff, select_eq_error_iff]

/-- The register-role fields of a raw instruction (R110): those of the instruction its token selects. -/
def Raw.regFields (r : Raw) : List Field :=
  match r.select with
  | .ok i => i.regFields
  | .error _ => []

theorem regFields_of_select {r : Raw} {i : Instr} (h : r.select = .ok i) : r.regFields = i.regFields := by
  simp only [Raw.regFields, h]

theorem regFields_of_not_select {r : Raw} (h : ¬ ∃ i, r.select = .ok i) : r.regFields = [] := by
  cases hsel : r.select with
  | ok i => exact absurd ⟨i, hsel⟩ h
  | error e => simp only [Raw.regFields, hsel]

/-- A raw instruction that its token makes no instruction has no register-role field to be out of range. -/
theorem decodeRecord_eq_outOfRange_iff_regFields {r : Raw} {f : Field} :
    decodeRecord r = .error (.registerOutOfRange f) ↔
      ∃ before after, r.regFields = before ++ f :: after ∧ (f.toInt < 0 ∨ 31 < f.toInt) ∧
        ∀ g ∈ before, 0 ≤ g.toInt ∧ g.toInt ≤ 31 := by
  rw [decodeRecord_eq_outOfRange_iff]
  by_cases hsel : ∃ i, r.select = .ok i
  · obtain ⟨i, hi⟩ := hsel
    simp [hi, regFields_of_select hi, badField_eq_some_iff]
  · simp only [regFields_of_not_select hsel]
    constructor
    · rintro ⟨i, hi, -⟩
      exact absurd ⟨i, hi⟩ hsel
    · rintro ⟨before, after, hsplit, -⟩
      simp at hsplit

theorem decodeRecord_isOk_iff_regFields {r : Raw} :
    (∃ d, decodeRecord r = .ok d) ↔ r.tok.toNat < 7 ∧ ∀ g ∈ r.regFields, 0 ≤ g.toInt ∧ g.toInt ≤ 31 := by
  rw [decodeRecord_isOk_iff, ← select_isOk_iff]
  constructor
  · rintro ⟨i, hi, hwf⟩
    rw [regFields_of_select hi]
    exact ⟨⟨i, hi⟩, wellFormed_iff.mp hwf⟩
  · rintro ⟨⟨i, hi⟩, hok⟩
    rw [regFields_of_select hi] at hok
    exact ⟨i, hi, wellFormed_iff.mpr hok⟩

/-- Settles O4: the list of the statement is `Raw.regFields`, by the token. -/
theorem decodeRejectsExactlyTheIllegal : Obligations.DecodeRejectsExactlyTheIllegal := by
  intro r regs
  have hregs : regs = r.regFields := by
    cases htok : Token.ofCode r.tok <;> simp [regs, Raw.regFields, Raw.select, htok, Instr.regFields]
  rw [hregs]
  exact ⟨decodeRecord_eq_sentinel_iff, fun _ => decodeRecord_eq_unknown_iff,
    fun _ => decodeRecord_eq_outOfRange_iff_regFields, decodeRecord_isOk_iff_regFields⟩

/-! ### The packed word (R102) -/

theorem unpack_pack (r : Raw) : Raw.unpack r.pack = r := by
  have htok : (r.tok ++ r.f0 ++ r.f1 ++ r.f2).extractLsb' 96 4 = r.tok := by
    rw [BitVec.extractLsb'_append_eq_of_le (by decide), BitVec.extractLsb'_append_eq_of_le (by decide),
      BitVec.extractLsb'_append_eq_left]
  have hf0 : (r.tok ++ r.f0 ++ r.f1 ++ r.f2).extractLsb' 64 32 = r.f0 := by
    rw [BitVec.extractLsb'_append_eq_of_le (by decide), BitVec.extractLsb'_append_eq_of_le le_rfl,
      BitVec.extractLsb'_append_eq_right]
  have hf1 : (r.tok ++ r.f0 ++ r.f1 ++ r.f2).extractLsb' 32 32 = r.f1 := by
    rw [BitVec.extractLsb'_append_eq_of_le le_rfl, BitVec.extractLsb'_append_eq_right]
  have hf2 : (r.tok ++ r.f0 ++ r.f1 ++ r.f2).extractLsb' 0 32 = r.f2 := BitVec.extractLsb'_append_eq_right
  exact (Raw.mk.injEq ..).mpr ⟨htok, hf0, hf1, hf2⟩

theorem decode_unpack_encodeWord {i : Instr} (h : WellFormed i = true) : decode (Raw.unpack (encodeWord i)) = .ok i := by
  rw [encodeWord, unpack_pack, Machine.decode_encode h]

/-- Settles O1: the token of an encoding selects its instruction, and packing loses no bit. -/
theorem decodeEncodeRoundTrip : Obligations.DecodeEncodeRoundTrip :=
  fun i h => ⟨Machine.decode_encode h, unpack_pack (encode i), decode_unpack_encodeWord h⟩

/-- A packed word is its own table word wherever its 100 bits fit. -/
theorem tableWord_toNat {nbits : Nat} (h : 100 ≤ nbits) (w : BitVec 100) : tableWord nbits w.toNat = some w := by
  have hlt : w.toNat < 2 ^ nbits := w.isLt.trans_le (Nat.pow_le_pow_right (by decide) h)
  rw [tableWord, Nat.mod_eq_of_lt hlt]
  simp [w.isLt]

/-- The decoder reads from an instruction's packed word that instruction. -/
theorem decodeTableWord_encodeWord {nbits : Nat} {i : Instr} (h : 100 ≤ nbits) (hwf : WellFormed i = true) :
    decodeTableWord nbits (encodeWord i).toNat = some i := by
  simp only [decodeTableWord, tableWord_toNat h, decode_unpack_encodeWord hwf]

/-- Settles O5: each word of the spec is the packed word of its line. -/
theorem specPackedWordsDecode : Obligations.SpecPackedWordsDecode := by
  have hword : ∀ (w : Nat) (i : Instr), (encodeWord i).toNat = w ∧ WellFormed i = true →
      decodeTableWord 104 w = some i := by
    rintro w i ⟨rfl, hwf⟩
    exact decodeTableWord_encodeWord (by decide) hwf
  exact ⟨hword _ _ (by decide), hword _ _ (by decide), hword _ _ (by decide), hword _ _ (by decide),
    hword _ _ (by decide), hword _ _ (by decide), hword _ _ (by decide)⟩

/-! ### The decoded record and its encoder (R105, R106, R117) -/

/-- A register-role field in range is recovered from its 5-bit index. -/
theorem setWidth_regIx {f : Field} (h : regFieldOk f = true) : (regIx f).setWidth 32 = f := by
  have hlt := (regFieldOk_iff f).mp h
  apply BitVec.eq_of_toNat_eq
  rw [BitVec.toNat_setWidth, regIx_toNat h]
  omega

/-- The instruction with its unused position 0: only LUI has one (R113, R117). -/
def Instr.clearUnused : Instr → Instr
  | .lui rd imm _ => .lui rd imm 0
  | i => i

theorem setWidth_regIx_of_wellFormed {i : Instr} (h : WellFormed i = true) :
    ∀ f ∈ i.regFields, (regIx f).setWidth 32 = f :=
  fun _ hf => setWidth_regIx (List.all_eq_true.mp h _ hf)

/-- The encoder of R117 undoes the record of a well-formed instruction, but for LUI's unused field. -/
theorem encode_record {i : Instr} (h : WellFormed i = true) : i.record.encode = encode i.clearUnused := by
  have hreg := setWidth_regIx_of_wellFormed h
  cases i <;> simp only [Instr.regFields, List.forall_mem_cons] at hreg <;>
    simp [Instr.record, Decoded.encode, encode, Instr.clearUnused, Op.tokenCode, hreg]

/-- The record a raw instruction decodes to is that of a well-formed instruction it is the encoding of. -/
theorem eq_encode_of_decodeRecord {r : Raw} {d : Decoded} (h : decodeRecord r = .ok d) :
    ∃ i, WellFormed i = true ∧ r = encode i ∧ d = i.record := by
  obtain ⟨i, hi, hd⟩ := decodeRecord_cases h
  obtain ⟨hr, hwf⟩ := decode_cases hi
  exact ⟨i, hwf, hr.symm, hd⟩

/-- Settles O2: by `encode_record`, only LUI's third field can differ. -/
theorem reencodeRecoversRawFields : Obligations.ReencodeRecoversRawFields := by
  intro r d h
  obtain ⟨i, hwf, rfl, rfl⟩ := eq_encode_of_decodeRecord h
  rw [encode_record hwf]
  cases i with
  | lui rd imm unused =>
    refine ⟨fun hzero => ?_, fun _ => rfl⟩
    obtain rfl : unused = 0 := hzero rfl
    rfl
  | _ => exact ⟨fun _ => rfl, nofun⟩

/-- Settles O3: one case per format, a register-role field by `setWidth_regIx`. -/
theorem decodeFollowsFieldContract : Obligations.DecodeFollowsFieldContract := by
  intro r d h
  obtain ⟨i, hwf, rfl, rfl⟩ := eq_encode_of_decodeRecord h
  have hreg := setWidth_regIx_of_wellFormed hwf
  cases i <;> simp only [Instr.regFields, List.forall_mem_cons] at hreg
  case add =>
    obtain ⟨hrd, hrs1, hrs2, -⟩ := hreg
    exact ⟨rfl, hrd, hrs1, hrs2, rfl⟩
  case addi =>
    obtain ⟨hrd, hrs1, -⟩ := hreg
    exact ⟨rfl, hrd, hrs1, rfl, rfl⟩
  case lw =>
    obtain ⟨hrd, hrs1, -⟩ := hreg
    exact ⟨rfl, hrd, rfl, hrs1, rfl⟩
  case sw =>
    obtain ⟨hrs2, hrs1, -⟩ := hreg
    exact ⟨rfl, hrs2, rfl, hrs1, rfl⟩
  case beq =>
    obtain ⟨hrs1, hrs2, -⟩ := hreg
    exact ⟨rfl, hrs1, hrs2, rfl, rfl⟩
  case blt =>
    obtain ⟨hrs1, hrs2, -⟩ := hreg
    exact ⟨rfl, hrs1, hrs2, rfl, rfl⟩
  case lui =>
    obtain ⟨hrd, -⟩ := hreg
    exact ⟨rfl, hrd, rfl, rfl, rfl⟩

end Sys2Proof

/-! PROOFS. The encoding in the pipeline: the peek of an ill-formed instruction (60_exceptions.md R280), and LUI from its
fetch to its retirement (42_integer.md R224). -/

namespace Sys2Proof.Machine

/-! ### An ill-formed instruction on the program port (R110, R112, R280) -/

theorem decodeRecord_encode_of_badField {i : Instr} {f : Field} (h : i.badField = some f) :
    decodeRecord (encode i) = .error (.registerOutOfRange f) :=
  decodeRecord_eq_outOfRange_iff.mpr ⟨i, select_encode i, h⟩

theorem peek_outOfRange {port : Raw} {f : Field} (h : decodeRecord port = .error (.registerOutOfRange f)) (s : State) :
    peek port s =
      .error (.raise { code := .decodeError, reason := .registerOutOfRange, pc := s.pc, value := f.toInt }) := by
  simp [peek, h, decodeAbort]

theorem outOfRange_of_badField {i : Instr} {f : Field} (h : i.badField = some f) : f.toInt < 0 ∨ 31 < f.toInt := by
  obtain ⟨before, after, -, hbad, -⟩ := badField_eq_some_iff.mp h
  exact hbad

/-- Settles O30: a drained block reaches the peek with its pc unchanged, and the peek raises. -/
theorem illFormedInstructionRaises : Obligations.IllFormedInstructionRaises := by
  intro i f s hdr hbad
  refine ⟨outOfRange_of_badField hbad, _, ?_, rfl⟩
  have hpeek := peek_outOfRange (decodeRecord_encode_of_badField hbad) (s.setFwd FwdSlot.none FwdSlot.none)
  have hbefore := beforeFetch_drained hdr
  obtain ⟨hfault, -⟩ := hdr
  rw [exec_eq_advance]
  exact advance_raise_peek hfault hbefore hpeek

/-! ### An instruction whose result is its ALU result (R220, R222, R224) -/

/-- An instruction alone in EM that writes its ALU result to `rd`: MEM does nothing with it, and WB writes `rd`. -/
theorem AloneInEM.aluResult_retires {i : Instr} {s u : State} (h : AloneInEM i s u)
    (hop : forwardsFromEM i.record.op = true) (hs : SentinelAt s (s.pc + 4)) :
    ∃ v, runs 2 u = .next v ∧ Drained v ∧ v.stillActive = false ∧
      v.regs = s.regs.set i.record.rd.toNat u.em.alu i.record.rd.isLt ∧
      v.mem = s.mem ∧ v.pc = s.pc + 4 ∧ v.cycle = s.cycle + 5 ∧ v.faultInfo = s.faultInfo := by
  have hlw : i.record.op ≠ .lw := by intro e; simp [e, forwardsFromEM] at hop
  have hsw : i.record.op ≠ .sw := by intro e; simp [e, forwardsFromEM] at hop
  have htaken : takesBranch u = false := by
    cases e : i.record.op <;> simp [e, forwardsFromEM, takesBranch, branchTaken, h.em_dec] at hop ⊢
  have hw : writesReg i.record.op = true := by
    cases e : i.record.op <;> simp [e, forwardsFromEM, writesReg] at hop ⊢
  have hmem := memory_plain h.em_valid (by rwa [h.em_dec]) (by rwa [h.em_dec]) htaken
  obtain ⟨v, hruns, hdr, hactive, hregs, hvmem, hrest⟩ := h.retires hmem rfl rfl rfl hs
  refine ⟨v, hruns, hdr, hactive, ?_, hvmem.trans h.mem, hrest⟩
  have hres : mwResult u.copyToMW.mw = u.em.alu := by
    cases e : i.record.op <;> simp [mwResult, h.em_dec, e] at hlw ⊢
  rw [hregs, nsX1_of_writesReg rfl (by simpa [h.em_dec] using hw), hres]
  simp [h.em_dec, h.regs]

/-- From the fetch to the retirement of such an instruction in a drained block, with the sentinel behind it (R227). -/
theorem fetched_aluResult_completes {i : Instr} {s : State} (hdr : Drained s) (hwf : WellFormed i = true)
    (hs : SentinelAt s (s.pc + 4)) (hop : forwardsFromEM i.record.op = true) :
    ∃ t u, exec i s = .next t ∧ runs 4 t = .next u ∧ Drained u ∧ u.stillActive = false ∧
      u.regs = s.regs.set i.record.rd.toNat
        (alu i.record.op (s.readReg i.record.rs1) (s.readReg i.record.rs2) i.record.imm) i.record.rd.isLt ∧
      u.mem = s.mem ∧ u.pc = s.pc + 4 ∧ u.cycle = s.cycle + 5 ∧ u.faultInfo = s.faultInfo := by
  obtain ⟨w, h, hruns⟩ := fetched_reaches_EM hdr hwf hs
  obtain ⟨v, hrun, hv⟩ := h.aluResult_retires hop hs
  rw [h.em_alu] at hv
  exact ⟨_, v, exec_drained hdr hwf, (hruns 2).trans hrun, hv⟩

/-! ### LUI (R224) -/

/-- The shift keeps the low 20 bits of the immediate, above 12 zeros. -/
theorem aluLui_eq_append (imm : Word) : aluLui imm = imm.extractLsb' 0 20 ++ (0 : BitVec 12) :=
  BitVec.shiftLeft_eq_concat_of_lt (by decide)

/-- The shift is the product with 2^12 modulo 2^32. -/
theorem aluLui_eq_u32 (imm : Word) : aluLui imm = u32 (imm.toInt * 2 ^ 12) := by
  rw [u32, BitVec.ofInt_mul, BitVec.ofInt_toInt, aluLui, BitVec.shiftLeft_eq_mul_twoPow]
  rfl

/-- Settles O39: LUI is such an instruction, with `aluLui` of its immediate. -/
theorem luiCompletes : Obligations.LuiCompletes := by
  intro rd imm unused s hdr hwf hs
  obtain ⟨t, u, hexec, hruns, hudr, hactive, hregs, hrest⟩ := fetched_aluResult_completes hdr hwf hs rfl
  have hval := aluLui_eq_append imm
  refine ⟨t, u, hexec, hruns, hudr, hactive, ?_, (aluLui_eq_u32 imm).symm.trans hval, hrest⟩
  rw [← hval]
  exact hregs

end Sys2Proof.Machine

/-! PROOFS. The cycle in its next-state form (40_pipeline.md R144, R147, R149, R164): what MEM, EX and ID leave in each
latch, read off the state at the start of the cycle. -/

namespace Sys2Proof.Machine

/-! ### MEM and the latches (R144, R264) -/

/-- The taken branch of R164 is the one MEM takes (R262). -/
theorem nsTaken_eq (s : State) : nsTaken s = takesBranch s := by
  cases hop : s.em.dec.op <;> simp [nsTaken, takesBranch, branchTaken, hop, beqTaken, bltTaken]

/-- MEM without a taken branch writes neither FD, DE nor EM. -/
theorem memory_latches_of_not_takesBranch {s s1 : State} (h : memory s = .ok s1) (ht : takesBranch s = false) :
    s1.fd = s.fd ∧ s1.de = s.de ∧ s1.em = s.em := by
  rcases memory_cases h with ⟨-, rfl⟩ | ⟨-, -, -, -, rfl⟩ | ⟨-, -, -, rfl⟩ | ⟨-, -, -, rfl⟩ | ⟨htaken, -, -⟩
  case inr.inr.inr.inr => simp [ht] at htaken
  all_goals exact ⟨rfl, rfl, rfl⟩

/-- A taken branch leaves FD, DE and EM invalid (R264). -/
theorem memory_latches_of_takesBranch {s s1 : State} (h : memory s = .ok s1) (ht : takesBranch s = true) :
    s1.fd.valid = false ∧ s1.de.valid = false ∧ s1.em.valid = false := by
  have hok : targetOk (branchTarget s.em.pc s.em.dec.imm) = true := by
    cases hok : targetOk (branchTarget s.em.pc s.em.dec.imm) with
    | true => rfl
    | false => simp [memory_badTarget ht hok] at h
  rw [memory_taken ht hok] at h
  cases h
  exact ⟨rfl, rfl, rfl⟩

/-- MW takes EM over, and only a LW writes the loaded word (R144, R242). -/
theorem memory_mw {s s1 : State} (h : memory s = .ok s1) (hv : s.em.valid = true) :
    s1.mw = { s.mw with
      valid := true, raw := s.em.raw, dec := s.em.dec, pc := s.em.pc, alu := s.em.alu
      mdata := if s.em.dec.op = .lw then nsLoaded s else s.mw.mdata } := by
  rcases memory_cases h with ⟨hno, -⟩ | ⟨-, hlw, -, -, rfl⟩ | ⟨-, hop, -, rfl⟩ | ⟨-, hop, -, rfl⟩ | ⟨ht, -, rfl⟩
  · simp [hv] at hno
  · simp [hlw]
  · simp [hop, nsLoaded]
  · simp [hop]
  · simp [op_ne_lw_of_takesBranch ht]

theorem memory_mw_of_invalid {s s1 : State} (h : memory s = .ok s1) (hv : s.em.valid = false) :
    s1.mw = { s.mw with valid := false } := by
  rw [memory_invalid hv] at h
  cases h
  rfl

/-- MEM of a LW that does not raise: its address is in range (R281). -/
theorem memory_load_in_bounds {s s1 : State} (h : memory s = .ok s1) (hv : s.em.valid = true)
    (hop : s.em.dec.op = .lw) : s.em.alu.toNat < 64 := by
  rcases memory_cases h with ⟨hno, -⟩ | ⟨-, hlw, -⟩ | ⟨-, -, hlt, -⟩ | ⟨-, hsw, -⟩ | ⟨ht, -, -⟩
  · simp [hv] at hno
  · exact absurd hop hlw
  · exact (wordIndex_lt_iff _).mp hlt
  · simp [hop] at hsw
  · exact absurd hop (op_ne_lw_of_takesBranch ht)

theorem memory_mem {s s1 : State} (h : memory (writeback s) = .ok s1) : s1.mem = nsMem s := by
  by_cases hsw : s.em.valid = true ∧ s.em.dec.op = .sw
  · obtain ⟨hv, hop⟩ := hsw
    obtain ⟨-, hmem⟩ := memory_of_store h (by simpa using hv) (by simpa using hop)
    simpa [nsMem, hv, hop, wordIndex_eq, State.readReg] using hmem
  · have hno : s.em.valid = false ∨ s.em.dec.op ≠ .sw := by simpa [or_iff_not_imp_left] using hsw
    rw [memory_mem_of_not_store h (by simpa using hno)]
    rcases hno with hv | hop
    · simp [nsMem, hv]
    · simp [nsMem, hop]

/-- The Memory fault of R164 is the one MEM raises. -/
theorem memory_of_nsMemFault {s : State} {r : Raise} (h : nsMemFault s = some r) :
    memory (writeback s) = .error (.raise r) := by
  unfold nsMemFault at h
  split at h
  · next hb =>
    cases h
    simp only [Bool.and_eq_true, Bool.or_eq_true, decide_eq_true_eq] at hb
    obtain ⟨⟨hv, hop⟩, hle⟩ := hb
    simpa using memory_bounds (s := writeback s) (by simpa using hv) (by simpa using hop)
      (by simpa using Nat.not_lt_of_le hle)
  · split at h
    · next ht =>
      cases h
      simp only [nsTaken_eq, Bool.and_eq_true, Bool.not_eq_true'] at ht
      obtain ⟨htaken, hbad⟩ := ht
      simpa using memory_badTarget (s := writeback s) (by simpa using htaken) (by simpa using hbad)
    · cases h

/-- Where R164 finds no Memory fault, MEM raises nothing. -/
theorem memory_of_no_nsMemFault {s : State} (h : nsMemFault s = none) : ∃ s1, memory (writeback s) = .ok s1 := by
  cases hmem : memory (writeback s) with
  | ok s1 => exact ⟨s1, rfl⟩
  | error a =>
    rcases memory_error hmem with ⟨hv, hop, hle, -⟩ | ⟨ht, hbad, -⟩
    · simp only [writeback_em] at hv hop hle
      simp [nsMemFault, hv, hop, hle] at h
    · simp only [takesBranch_writeback, writeback_em] at ht hbad
      unfold nsMemFault at h
      split at h
      · cases h
      · simp [nsTaken_eq, ht, hbad] at h

/-! ### The frame of the sub-steps after MEM -/

@[simp] theorem execute_fd (s : State) : (execute s).fd = s.fd := by
  rcases execute_cases s with ⟨-, h⟩ | ⟨-, h⟩ <;> rw [h] <;> rfl

@[simp] theorem execute_de (s : State) : (execute s).de = s.de := by
  rcases execute_cases s with ⟨-, h⟩ | ⟨-, h⟩ <;> rw [h] <;> rfl

@[simp] theorem execute_mw (s : State) : (execute s).mw = s.mw := by
  rcases execute_cases s with ⟨-, h⟩ | ⟨-, h⟩ <;> rw [h] <;> rfl

@[simp] theorem forward_fd (s : State) : (forward s).fd = s.fd := rfl
@[simp] theorem forward_mw (s : State) : (forward s).mw = s.mw := rfl

/-- ID writes DE and no other latch. -/
theorem decodeStage_latches {s s1 : State} (h : decodeStage s = .ok s1) :
    s1.fd = s.fd ∧ s1.em = s.em ∧ s1.mw = s.mw := by
  rcases decodeStage_cases h with ⟨-, rfl⟩ | ⟨d, -, -, rfl⟩ <;> exact ⟨rfl, rfl, rfl⟩

/-- STALL_IF leaves EM and MW alone. -/
theorem stallOrFetch_latches {port : Raw} {s s1 : State} {b : Bool} (h : stallOrFetch port s = .ok (s1, b)) :
    s1.em = s.em ∧ s1.mw = s.mw := by
  rcases stallOrFetch_cases h with ⟨d, -, -, rfl, -⟩ | ⟨-, rfl, -⟩ | ⟨d, -, -, rfl, -⟩ <;> exact ⟨rfl, rfl⟩

/-! ### The state as STALL_IF finds it (R141) -/

theorem beforeFetch_mw_eq {s s1 s3 : State} (h1 : memory (writeback s) = .ok s1) (h : beforeFetch s = .ok s3) :
    s3.mw = s1.mw := by
  rw [beforeFetch_eq h1] at h
  obtain ⟨-, -, hmw⟩ := decodeStage_latches h
  simpa using hmw

theorem beforeFetch_sameRegsAndRecord {s s3 : State} (h : beforeFetch s = .ok s3) :
    SameRegsAndRecord (writeback s) s3 := by
  obtain ⟨s1, h1, h3⟩ := beforeFetch_cases h
  have hfwd : SameRegsAndRecord s1 (forward s1) := ⟨rfl, rfl, rfl⟩
  exact (memory_sameRegsAndRecord h1).trans <| hfwd.trans <|
    (execute_sameRegsAndRecord _).trans (decodeStage_sameRegsAndRecord h3)

theorem beforeFetch_regs {s s3 : State} (h : beforeFetch s = .ok s3) : s3.regs = nsX1 s := by
  obtain ⟨hregs, -, -⟩ := beforeFetch_sameRegsAndRecord h
  simpa using hregs

theorem beforeFetch_fault {s s3 : State} (h : beforeFetch s = .ok s3) : s3.fault = s.fault := by
  obtain ⟨-, hfault, -⟩ := beforeFetch_sameRegsAndRecord h
  simpa using hfault

theorem beforeFetch_mem {s s3 : State} (h : beforeFetch s = .ok s3) : s3.mem = nsMem s := by
  obtain ⟨s1, h1, h3⟩ := beforeFetch_cases h
  calc s3.mem = (execute (forward s1)).mem := decodeStage_mem h3
    _ = s1.mem := by simp [forward]
    _ = nsMem s := memory_mem h1

theorem fetchAddr_eq_nsPc1 {s s3 : State} (h : beforeFetch s = .ok s3) : fetchAddr s = nsPc1 s := by
  rw [fetchAddr_of_beforeFetch h, nsPc1, nsTaken_eq]

theorem beforeFetch_mwView {s s3 : State} (h : beforeFetch s = .ok s3) : s3.mw.mwView = nsMW s := by
  obtain ⟨s1, h1, -⟩ := beforeFetch_cases h
  rw [beforeFetch_mw_eq h1 h]
  cases hv : s.em.valid with
  | false => simp [memory_mw_of_invalid h1 (by simpa using hv), Latch.mwView, nsMW, hv]
  | true =>
    by_cases hop : s.em.dec.op = .lw <;>
      simp [memory_mw h1 (by simpa using hv), Latch.mwView, nsMW, hv, hop, nsLoaded]

/-- FD without a taken branch is as the cycle found it; EX and ID read it and do not write it. -/
theorem beforeFetch_fd_of_not_takesBranch {s s3 : State} (h : beforeFetch s = .ok s3) (ht : takesBranch s = false) :
    s3.fd = s.fd := by
  obtain ⟨s1, h1, h3⟩ := beforeFetch_cases h
  obtain ⟨hid, -, -⟩ := decodeStage_latches h3
  obtain ⟨hmem, -, -⟩ := memory_latches_of_not_takesBranch h1 (by simpa using ht)
  simpa [hmem] using hid

theorem beforeFetch_deView {s s3 : State} (h : beforeFetch s = .ok s3) : s3.de.deView = nsD1 s := by
  obtain ⟨s1, h1, h3⟩ := beforeFetch_cases h
  cases ht : takesBranch s with
  | true =>
    obtain ⟨hfd, -, -⟩ := memory_latches_of_takesBranch h1 (by simpa using ht)
    rw [decodeStage_invalid (by simpa using hfd)] at h3
    cases h3
    simp [Latch.deView, nsD1, nsTaken_eq, ht]
  | false =>
    obtain ⟨hfd, -, -⟩ := memory_latches_of_not_takesBranch h1 (by simpa using ht)
    rcases decodeStage_cases h3 with ⟨hv, rfl⟩ | ⟨d, hv, hd, rfl⟩
    · simp only [execute_fd, forward_fd, hfd, writeback_fd] at hv
      simp [Latch.deView, nsD1, hv]
    · simp only [execute_fd, forward_fd, hfd, writeback_fd] at hv hd
      simp [Latch.deView, nsD1, nsTaken_eq, ht, hv, hd, hfd]

/-! ### The operands of EX (R190, R192) -/

/-- The condition of R164's operand is forwarding rule 1, read off EM at the start of the cycle. -/
theorem nsOperand_eq_ite (s : State) (r : RegIx) :
    nsOperand s r = if mwForwards s.em r = true then (if s.em.dec.op = .lw then nsLoaded s else s.em.alu)
      else (nsX1 s)[r.toNat]'r.isLt := rfl

/-- After MEM, rule 1 finds the instruction that stood in EM. -/
theorem mwForwards_of_memory {s s1 : State} (h : memory s = .ok s1) (r : RegIx) :
    mwForwards s1.mw r = mwForwards s.em r := by
  cases hv : s.em.valid with
  | false => rw [memory_mw_of_invalid h hv, mwForwards_of_invalid rfl, mwForwards_of_invalid hv]
  | true => simp [mwForwards, memory_mw h hv, hv]

/-- What rule 2 covers, rule 1 covers too when the instruction is in MW (R191). -/
theorem mwForwards_of_emForwards {l : Latch} {r : RegIx} (h : emForwards l r = true) : mwForwards l r = true := by
  have hop : forwardsFromEM l.dec.op = true → writesReg l.dec.op = true := by
    cases l.dec.op <;> simp [forwardsFromEM, writesReg]
  simp only [emForwards, mwForwards, Bool.and_eq_true] at h ⊢
  obtain ⟨⟨⟨hv, hfwd⟩, hne⟩, hrd⟩ := h
  exact ⟨⟨⟨hv, hop hfwd⟩, hne⟩, hrd⟩

theorem mwResult_of_memory {s s1 : State} (h : memory s = .ok s1) (hv : s.em.valid = true) :
    mwResult s1.mw = if s.em.dec.op = .lw then nsLoaded s else s.em.alu := by
  cases hop : s.em.dec.op <;> simp [mwResult, memory_mw h hv, hop]

/-- After MEM, the copy of EM in MW forwards the result of the instruction in EM, a loaded word included: the operand
of EX is the one R164 names. -/
theorem operand_eq_nsOperand {s s1 : State} (h1 : memory (writeback s) = .ok s1) (ht : takesBranch s = false)
    (r : RegIx) : operand (fwdSelect s1.mw s1.em r) r s1 = nsOperand s r := by
  have hrule1 : mwForwards s1.mw r = mwForwards s.em r := by simpa using mwForwards_of_memory h1 r
  rw [nsOperand_eq_ite, ← hrule1]
  rcases fwdSelect_cases s1.mw s1.em r with ⟨hmw, hsel⟩ | ⟨hmw, hem, -⟩ | ⟨hmw, -, hsel⟩
  · have hv : s.em.valid = true := by
      cases hv : s.em.valid with
      | true => rfl
      | false => simp [hrule1, mwForwards_of_invalid hv] at hmw
    rw [hsel, operand_fromMW, if_pos hmw, mwResult_of_memory h1 (by simpa using hv)]
    simp [nsLoaded]
  · obtain ⟨-, -, hsame⟩ := memory_latches_of_not_takesBranch h1 (by simpa using ht)
    rw [hsame, writeback_em] at hem
    simp [hrule1, mwForwards_of_emForwards hem] at hmw
  · obtain ⟨hregs, -, -⟩ := memory_sameRegsAndRecord h1
    rw [hsel, operand_none]
    simp [hmw, State.readReg, hregs]

theorem beforeFetch_emView {s s3 : State} (h : beforeFetch s = .ok s3) : s3.em.emView = nsEM s := by
  obtain ⟨s1, h1, h3⟩ := beforeFetch_cases h
  obtain ⟨-, hem, -⟩ := decodeStage_latches h3
  rw [hem]
  cases ht : takesBranch s with
  | true =>
    obtain ⟨-, hde, -⟩ := memory_latches_of_takesBranch h1 (by simpa using ht)
    rw [execute_invalid (by simpa [forward] using hde)]
    simp [Latch.emView, nsEM, nsTaken_eq, ht]
  | false =>
    obtain ⟨-, hde, -⟩ := memory_latches_of_not_takesBranch h1 (by simpa using ht)
    rw [writeback_de] at hde
    cases hv : s.de.valid with
    | false =>
      rw [execute_invalid (by simpa [forward, hde] using hv)]
      simp [Latch.emView, nsEM, hv]
    | true =>
      have hresult : executeResult (forward s1) =
          alu s.de.dec.op (nsOperand s s.de.dec.rs1) (nsOperand s s.de.dec.rs2) s.de.dec.imm := by
        rw [← operand_eq_nsOperand h1 ht, ← operand_eq_nsOperand h1 ht, ← hde]
        rfl
      rw [execute_valid (by simpa [forward, hde] using hv), hresult]
      simp [Latch.emView, nsEM, nsTaken_eq, ht, hv, forward, hde]

/-! ### The latches a quiet cycle leaves -/

/-- A cycle that raises nothing, up to STALL_IF and from there to its end. -/
theorem quietCycle_cases {s t : State} (h : QuietCycle s t) :
    ∃ port s3 s4 b, beforeFetch s = .ok s3 ∧ stallOrFetch port s3 = .ok (s4, b) ∧ t = s4.endCycle b := by
  obtain ⟨hcyc, hs, ht⟩ := h
  obtain ⟨port, hadv⟩ := advance_of_cycleTo hcyc
  obtain ⟨s4, b, hsub, rfl⟩ := advance_quiet hadv hs ht
  obtain ⟨-, s3, -, -, h3, h4⟩ := subSteps_cases hsub
  exact ⟨port, s3, s4, b, h3, h4, rfl⟩

theorem quietCycle_mw {s t : State} (h : QuietCycle s t) : ∃ s1, memory (writeback s) = .ok s1 ∧ t.mw = s1.mw := by
  obtain ⟨port, s3, s4, b, h3, h4, rfl⟩ := quietCycle_cases h
  obtain ⟨s1, h1, -⟩ := beforeFetch_cases h3
  obtain ⟨-, hmw⟩ := stallOrFetch_latches h4
  exact ⟨s1, h1, hmw.trans (beforeFetch_mw_eq h1 h3)⟩

theorem quietCycle_emView {s t : State} (h : QuietCycle s t) : t.em.emView = nsEM s := by
  obtain ⟨port, s3, s4, b, h3, h4, rfl⟩ := quietCycle_cases h
  obtain ⟨hem, -⟩ := stallOrFetch_latches h4
  rw [endCycle_em, hem, beforeFetch_emView h3]

/-- Settles O13: MEM alone writes MW. -/
theorem memoryStageFillsMW : Obligations.MemoryStageFillsMW := by
  intro s t hq
  obtain ⟨s1, h1, hmw⟩ := quietCycle_mw hq
  rw [hmw]
  refine ⟨fun hv => by rw [memory_mw_of_invalid h1 (by simpa using hv)], fun hv => ?_⟩
  have hv' : (writeback s).em.valid = true := by simpa using hv
  rw [memory_mw h1 hv']
  refine ⟨rfl, by simp, by simp, by simp, by simp, fun hop => ⟨?_, ?_⟩, fun hop => by simp [hop]⟩
  · simpa using memory_load_in_bounds h1 hv' (by simpa using hop)
  · simp [hop, nsLoaded, wordIndex_eq]

/-! ### The ALU (R220, R222, R224, R240, R262) -/

theorem sub_eq_u32 (A B : Word) : A - B = u32 (A.toNat - B.toNat) := by
  rw [u32, Int.sub_eq_add_neg, BitVec.ofInt_add, BitVec.ofInt_neg, BitVec.sub_eq_add_neg]
  simp

theorem add_eq_u32 (A B : Word) : A + B = u32 (A.toNat + B.toNat) := by
  rw [u32, BitVec.ofInt_add]
  simp

/-- The ALU result of every opcode as an exact integer modulo 2^32. -/
theorem alu_eq_u32 (op : Op) (A B imm : Word) :
    alu op A B imm = match op with
      | .add => u32 (A.toNat + B.toNat)
      | .addi => u32 (A.toNat + imm.toInt)
      | .lw => u32 (A.toNat + imm.toInt)
      | .sw => u32 (A.toNat + imm.toInt)
      | .beq => u32 (A.toNat - B.toNat)
      | .blt => u32 (A.toNat - B.toNat)
      | .lui => u32 (imm.toInt * 2 ^ 12) := by
  cases op
  case add => exact add_eq_u32 A B
  case beq => exact sub_eq_u32 A B
  case blt => exact sub_eq_u32 A B
  case lui => exact aluLui_eq_u32 imm
  all_goals exact effectiveAddress_eq A imm

/-- The operand of R164 by the opcode in EM, its register read being the one the cycle leaves. -/
theorem nsOperand_eq {s t : State} (h : QuietCycle s t) (r : RegIx) :
    nsOperand s r =
      if s.em.valid = true ∧ s.em.dec.rd = r ∧ r ≠ 0 then
        match s.em.dec.op with
        | .add | .addi | .lui => s.em.alu
        | .lw => Memory.read s.mem (s.em.alu.toNat / 4)
        | .sw | .beq | .blt => t.readReg r
      else t.readReg r := by
  have hread : (nsX1 s)[r.toNat]'r.isLt = t.readReg r := by simp [State.readReg, quietCycle_regs h]
  rw [nsOperand, hread]
  by_cases hr : s.em.valid = true ∧ s.em.dec.rd = r ∧ r ≠ 0
  · obtain ⟨hv, rfl, -⟩ := hr
    cases s.em.dec.op <;> simp [hv, writesReg, nsLoaded, wordIndex_eq]
  · rw [if_neg hr, if_neg]
    simp only [Bool.and_eq_true, decide_eq_true_eq]
    rintro ⟨⟨⟨hv, -⟩, hne⟩, rfl⟩
    exact hr ⟨hv, rfl, hne⟩

/-- Settles O15: EM after the cycle is the EM of R164. -/
theorem executeComputesIntoEM : Obligations.ExecuteComputesIntoEM := by
  intro s t hq value A B
  have hem := quietCycle_emView hq
  have hA : nsOperand s s.de.dec.rs1 = A := nsOperand_eq hq _
  have hB : nsOperand s s.de.dec.rs2 = B := nsOperand_eq hq _
  rw [nsEM, nsTaken_eq, hA, hB] at hem
  refine ⟨fun hv ht => ?_, fun hno => ?_⟩
  · rw [alu_eq_u32] at hem
    cases hem' : t.em.valid <;> simp [hv, ht, Latch.emView, hem'] at hem
    obtain ⟨hraw, hdec, hpc, halu⟩ := hem
    exact ⟨rfl, hraw, hdec, hpc, halu⟩
  · have hnone : (s.de.valid && !takesBranch s) = false := by rcases hno with h | h <;> simp [h]
    cases hem' : t.em.valid <;> simp [hnone, Latch.emView, hem'] at hem ⊢

/-! ### The next-state form (R164) -/

/-- ID cannot raise where FD, if valid, decodes (R150). -/
theorem beforeFetch_of_memory_ok {s s1 : State} (h1 : memory (writeback s) = .ok s1)
    (hfd : s.fd.valid = true → decodes s.fd.raw = true) : ∃ s3, beforeFetch s = .ok s3 := by
  rw [beforeFetch_eq h1]
  cases h3 : decodeStage (execute (forward s1)) with
  | ok s3 => exact ⟨s3, rfl⟩
  | error a =>
    obtain ⟨e, hv, hd, -⟩ := decodeStage_error h3
    simp only [execute_fd, forward_fd] at hv hd
    cases ht : takesBranch s with
    | true =>
      obtain ⟨hno, -, -⟩ := memory_latches_of_takesBranch h1 (by simpa using ht)
      simp [hno] at hv
    | false =>
      obtain ⟨hsame, -, -⟩ := memory_latches_of_not_takesBranch h1 (by simpa using ht)
      simp only [hsame, writeback_fd] at hv hd
      simp [decodes, hd] at hfd
      simp [hfd] at hv

theorem fetchRaw_eq_nsPc1 {s s3 : State} (h : beforeFetch s = .ok s3) : fetchRaw s = s.progAt (nsPc1 s) := by
  rw [fetchRaw, fetchAddr_eq_nsPc1 h]

/-- The `st` of R164 is the load-use condition that STALL_IF tests (R200). -/
theorem loadUse_eq_nsStall {s s3 : State} (h : beforeFetch s = .ok s3) (nd : Option Decoded) :
    loadUse s3.de nd = nsStall s nd := by
  have hde := beforeFetch_deView h
  cases nd with
  | none => cases hD : nsD1 s <;> simp [loadUse, nsStall, hD]
  | some d => cases hv : s3.de.valid <;> simp [loadUse, nsStall, ← hde, Latch.deView, hv]

theorem takesBranch_of_nsStall {s : State} {nd : Option Decoded} (h : nsStall s nd = true) :
    takesBranch s = false := by
  cases ht : takesBranch s with
  | false => rfl
  | true => simp [nsStall, nsD1, nsTaken_eq, ht] at h

@[simp] theorem deView_isNone (l : Latch) : l.deView.isNone = !l.valid := by
  cases h : l.valid <;> simp [Latch.deView, h]

@[simp] theorem emView_isNone (l : Latch) : l.emView.isNone = !l.valid := by
  cases h : l.valid <;> simp [Latch.emView, h]

@[simp] theorem mwView_isNone (l : Latch) : l.mwView.isNone = !l.valid := by
  cases h : l.valid <;> simp [Latch.mwView, h]

theorem insertBubble_deView (s : State) :
    s.insertBubble.de.deView = s.de.deView.map (fun d => { d with dec := Decoded.zero }) := by
  cases h : s.de.valid <;> simp [Latch.deView, h]

/-- A stall cycle shows the stalled view of R164. -/
theorem view_of_stall {s s3 : State} {d : Decoded} (h : beforeFetch s = .ok s3) (hst : nsStall s (some d) = true)
    (port : Raw) : (s3.insertBubble.endCycle false).view = nsView s port (some d) := by
  have ht := takesBranch_of_nsStall hst
  have hpc : s3.pc = nsPc1 s := (beforeFetch_pc h).trans (fetchAddr_eq_nsPc1 h)
  simp only [State.view, nsView, hst, endCycle_de, insertBubble_deView, beforeFetch_deView h]
  simp [beforeFetch_regs h, beforeFetch_mem h, hpc, beforeFetch_fd_of_not_takesBranch h ht, beforeFetch_emView h,
    beforeFetch_mwView h]

/-- A cycle that fetches the sentinel shows the view of R164 with nothing on the program port. -/
theorem view_of_sentinel {s s3 : State} (h : beforeFetch s = .ok s3) (port : Raw) :
    (s3.clearFD.endCycle true).view = nsView s port none := by
  have hpc : s3.pc = nsPc1 s := (beforeFetch_pc h).trans (fetchAddr_eq_nsPc1 h)
  have hst : nsStall s none = false := by rw [← loadUse_eq_nsStall h]; rfl
  simp [State.view, nsView, hst, beforeFetch_regs h, beforeFetch_mem h, hpc, Latch.fdView, ← beforeFetch_deView h,
    ← beforeFetch_emView h, ← beforeFetch_mwView h]

/-- A cycle that fetches an instruction shows the view of R164 with FD filled from the program port. -/
theorem view_of_fetch {s s3 : State} {d : Decoded} (h : beforeFetch s = .ok s3) (hst : nsStall s (some d) = false)
    (port : Raw) : ((s3.fetch port).endCycle false).view = nsView s port (some d) := by
  have hpc : s3.pc = nsPc1 s := (beforeFetch_pc h).trans (fetchAddr_eq_nsPc1 h)
  simp [State.view, nsView, hst, beforeFetch_regs h, beforeFetch_mem h, hpc, Latch.fdView, beforeFetch_deView h,
    beforeFetch_emView h, beforeFetch_mwView h]

/-- The cycle with a line that decodes on its program port, where nothing before STALL_IF raises. -/
theorem advance_of_decodes {s s3 : State} {d : Decoded} {port : Raw} (hf : s.fault = false)
    (h3 : beforeFetch s = .ok s3) (hd : decodeRecord port = .ok d) :
    ∃ t, advance port s = .next t ∧ t.fault = false ∧ t.view = nsView s port (some d) := by
  have hlu := loadUse_eq_nsStall h3 (some d)
  have hf3 : s3.fault = false := (beforeFetch_fault h3).trans hf
  cases hst : nsStall s (some d) with
  | true => exact ⟨_, advance_stall hf h3 hd (hlu.trans hst), hf3, view_of_stall h3 hst port⟩
  | false => exact ⟨_, advance_fetch hf h3 hd (hlu.trans hst), hf3, view_of_fetch h3 hst port⟩

theorem peek_of_error {port : Raw} {e : Reject} (hd : decodeRecord port = .error e) (hne : e ≠ .sentinel) (s : State) :
    peek port s = .error (decodeAbort s.pc e) := by
  cases e with
  | sentinel => exact absurd rfl hne
  | unknownMnemonic c => simp [peek, hd]
  | registerOutOfRange f => simp [peek, hd]

/-- The cycle with a line on its program port that the peek rejects (R280). -/
theorem advance_of_rejected {s s3 : State} {r : Raise} {e : Reject} {port : Raw} (hf : s.fault = false)
    (h3 : beforeFetch s = .ok s3) (hd : decodeRecord port = .error e) (hr : decodeAbort (nsPc1 s) e = .raise r) :
    advance port s = .next (s.takeFault r) := by
  have hne : e ≠ .sentinel := by rintro rfl; cases hr
  refine advance_raise_peek hf h3 ?_
  rw [peek_of_error hd hne, beforeFetch_pc h3, fetchAddr_eq_nsPc1 h3, hr]

/-- Settles O49: a Memory fault, or else one case per answer of the decoder on the line at `pc1`. -/
theorem nextStateFormAgrees : Obligations.NextStateFormAgrees := by
  intro s hf hfd
  rw [step_eq_advance]
  unfold nextForm
  cases hmf : nsMemFault s with
  | some r => exact ⟨_, advance_raise_memory hf (memory_of_nsMemFault hmf), rfl⟩
  | none =>
    obtain ⟨s1, h1⟩ := memory_of_no_nsMemFault hmf
    obtain ⟨s3, h3⟩ := beforeFetch_of_memory_ok h1 hfd
    rw [fetchRaw_eq_nsPc1 h3]
    cases hd : decodeRecord (s.progAt (nsPc1 s)) with
    | ok d => exact advance_of_decodes hf h3 hd
    | error e =>
      cases e with
      | sentinel =>
        exact ⟨_, advance_sentinel hf h3 hd, (beforeFetch_fault h3).trans hf, view_of_sentinel h3 _⟩
      | unknownMnemonic c => exact ⟨_, advance_of_rejected hf h3 hd rfl, rfl⟩
      | registerOutOfRange f => exact ⟨_, advance_of_rejected hf h3 hd rfl, rfl⟩

end Sys2Proof.Machine

/-! PROOFS. The end of a cycle (40_pipeline.md R150 to R168): the stall that keeps FD and the pc, what `still_active`
says, the terminated block and the halted one, and that no state of the invariant stops. -/

namespace Sys2Proof.Machine

/-! ### What ID hands on (R149, R264) -/

/-- DE takes over the line and the address in FD, or nothing where FD is invalid. -/
theorem beforeFetch_de_line {s s3 : State} (h : beforeFetch s = .ok s3) (ht : takesBranch s = false) :
    s3.de.fdView = s.fd.fdView := by
  obtain ⟨s1, h1, h3⟩ := beforeFetch_cases h
  obtain ⟨hfd, -, -⟩ := memory_latches_of_not_takesBranch h1 (by simpa using ht)
  rw [writeback_fd] at hfd
  rcases decodeStage_cases h3 with ⟨hv, rfl⟩ | ⟨d, hv, -, rfl⟩
  · simp only [execute_fd, forward_fd, hfd] at hv
    simp [Latch.fdView, hv]
  · simp only [execute_fd, forward_fd, hfd] at hv
    simp [Latch.fdView, hv, hfd]

/-- A valid DE before STALL_IF: no branch was taken, and FD holds the instruction that ID decoded. -/
theorem beforeFetch_of_de_valid {s s3 : State} (h : beforeFetch s = .ok s3) (hv : s3.de.valid = true) :
    takesBranch s = false ∧ s.fd.valid = true ∧ s3.de.raw = s.fd.raw ∧ s3.de.pc = s.fd.pc := by
  have ht : takesBranch s = false := by
    cases ht : takesBranch s with
    | false => rfl
    | true =>
      have hde := beforeFetch_deView h
      simp [Latch.deView, hv, nsD1, nsTaken_eq, ht] at hde
  obtain ⟨hvalid, hfields⟩ := fdView_eq_iff.mp (beforeFetch_de_line h ht)
  exact ⟨ht, hvalid ▸ hv, hfields hv⟩

/-! ### The stall cycle (R153, R160, R201) -/

theorem stallsOn_cases {port : Raw} {s : State} (h : stallsOn port s = true) :
    ∃ s3 d, beforeFetch s = .ok s3 ∧ decodeRecord port = .ok d ∧ loadUse s3.de (some d) = true := by
  cases h3 : beforeFetch s with
  | error a => simp [stallsOn, h3] at h
  | ok s3 =>
    cases hp : peek port s3 with
    | error a => simp [stallsOn, h3, hp] at h
    | ok nd =>
      simp only [stallsOn, h3, hp] at h
      rcases peek_cases hp with ⟨rfl, -⟩ | ⟨d, rfl, hd⟩
      · simp [loadUse] at h
      · exact ⟨s3, d, rfl, hd, h⟩

/-- Settles O18: a stall needs a LW that ID has moved from FD into DE, so no branch moved the pc or emptied FD. -/
theorem stallInsertsTheBubble : Obligations.StallInsertsTheBubble := by
  intro s hst
  simp only [stalls, Bool.and_eq_true, Bool.not_eq_true'] at hst
  obtain ⟨hf, hon⟩ := hst
  obtain ⟨s3, d, h3, hd, hlu⟩ := stallsOn_cases hon
  obtain ⟨hde, -⟩ := loadUse_some.mp hlu
  obtain ⟨ht, -, hraw, haddr⟩ := beforeFetch_of_de_valid h3 hde
  have hfault : s3.fault = false := (beforeFetch_fault h3).trans hf
  have hfd : s3.fd = s.fd := beforeFetch_fd_of_not_takesBranch h3 ht
  have hpc : s3.pc = s.pc := (beforeFetch_pc h3).trans (fetchAddr_of_not_takesBranch ht)
  exact ⟨_, (step_eq_advance s).trans (advance_stall hf h3 hd hlu), hfault, hfd, hpc, rfl, hde, hraw, haddr, rfl⟩

/-! ### `still_active` (R168) -/

/-- A step that raises nothing, up to STALL_IF and from there to its end. -/
theorem quietStep_cases {s t : State} (hs : s.fault = false) (h : step s = .next t) (ht : t.fault = false) :
    ∃ s3 s4 b, beforeFetch s = .ok s3 ∧ stallOrFetch (fetchRaw s) s3 = .ok (s4, b) ∧ t = s4.endCycle b := by
  rw [step_eq_advance] at h
  obtain ⟨s4, b, hsub, rfl⟩ := advance_quiet h hs ht
  obtain ⟨-, s3, -, -, h3, h4⟩ := subSteps_cases hsub
  exact ⟨s3, s4, b, h3, h4, rfl⟩

theorem quietCycle_stillActive {s t : State} (h : QuietCycle s t) : t.stillActive = anyValid t := by
  obtain ⟨port, s3, s4, b, -, h4, rfl⟩ := quietCycle_cases h
  exact endCycle_stillActive_eq_anyValid h4

theorem tok_ne_nop_of_decodes {r : Raw} {d : Decoded} (h : decodeRecord r = .ok d) : Token.ofCode r.tok ≠ .nop := by
  intro hnop
  simp [decodeRecord_sentinel hnop] at h

/-- The fetch of the sentinel empties FD; a stall keeps the valid FD it found, and a fetch fills it. -/
theorem quietStep_fd_invalid_iff {s t : State} (hs : s.fault = false) (h : step s = .next t) (ht : t.fault = false) :
    t.fd.valid = false ↔ Token.ofCode (fetchRaw s).tok = .nop := by
  obtain ⟨s3, s4, b, h3, h4, rfl⟩ := quietStep_cases hs h ht
  rcases stallOrFetch_cases h4 with ⟨d, hd, hlu, rfl, -⟩ | ⟨hd, rfl, -⟩ | ⟨d, hd, -, rfl, -⟩
  · obtain ⟨hde, -⟩ := loadUse_some.mp hlu
    obtain ⟨hno, hfd, -⟩ := beforeFetch_of_de_valid h3 hde
    simp [beforeFetch_fd_of_not_takesBranch h3 hno, hfd, tok_ne_nop_of_decodes hd]
  · simp [tok_of_decodeRecord_sentinel hd]
  · simp [tok_ne_nop_of_decodes hd]

/-- Settles O31: both sentences of R168, one for any cycle and one for the block's own step. -/
theorem stillActiveMeansALatchIsValid : Obligations.StillActiveMeansALatchIsValid :=
  ⟨fun _ _ => quietCycle_stillActive, fun _ _ => quietStep_fd_invalid_iff⟩

/-! ### The terminated block (R161) -/

theorem anyValid_eq_false_iff {s : State} :
    anyValid s = false ↔ s.fd.valid = false ∧ s.de.valid = false ∧ s.em.valid = false ∧ s.mw.valid = false := by
  simp [anyValid, and_assoc]

/-- A drained block at the sentinel: the cycle fills the slots of the empty DE (R146) and fetches nothing. -/
theorem step_drained_at_sentinel {s : State} (hdr : Drained s) (hs : SentinelAt s s.pc) :
    step s = .next ((s.setFwd FwdSlot.none FwdSlot.none).clearFD.endCycle true) := by
  have h3 := beforeFetch_drained hdr
  obtain ⟨hf, -, -, hem, -⟩ := hdr
  have haddr : fetchAddr s = s.pc := fetchAddr_of_not_takesBranch (by simp [takesBranch, hem])
  have hd : decodeRecord (fetchRaw s) = .error .sentinel := by rw [fetchRaw, haddr]; exact decodeRecord_sentinel hs
  exact (step_eq_advance s).trans (advance_sentinel hf h3 hd)

/-- With nothing in EM to go into MW, FWD finds no result to forward. -/
theorem beforeFetch_slots_of_mw_invalid {s s3 : State} (h : beforeFetch s = .ok s3) (hv : s3.mw.valid = false) :
    s3.de.fwdA = FwdSlot.none ∧ s3.de.fwdB = FwdSlot.none := by
  obtain ⟨s1, h1, h3⟩ := beforeFetch_cases h
  have hmw : s1.mw.valid = false := beforeFetch_mw_eq h1 h ▸ hv
  have hem : s.em.valid = false := by
    cases hem : s.em.valid with
    | false => rfl
    | true => simp [memory_mw h1 (by simpa using hem)] at hmw
  obtain ⟨-, -, hsame⟩ := memory_latches_of_not_takesBranch h1 (by simp [takesBranch, hem])
  have hslots : ∀ r, fwdSelect s1.mw s1.em r = FwdSlot.none :=
    fwdSelect_of_invalid hmw (by simpa [hsame] using hem)
  rcases decodeStage_cases h3 with ⟨-, rfl⟩ | ⟨d, -, -, rfl⟩ <;> simp [forward, hslots]

theorem stallOrFetch_slots {port : Raw} {s s1 : State} {b : Bool} (h : stallOrFetch port s = .ok (s1, b)) :
    s1.de.fwdA = s.de.fwdA ∧ s1.de.fwdB = s.de.fwdB := by
  rcases stallOrFetch_cases h with ⟨d, -, -, rfl, -⟩ | ⟨-, rfl, -⟩ | ⟨d, -, -, rfl, -⟩ <;> exact ⟨rfl, rfl⟩

theorem quietCycle_slots_of_mw_invalid {s t : State} (h : QuietCycle s t) (hv : t.mw.valid = false) :
    t.de.fwdA = FwdSlot.none ∧ t.de.fwdB = FwdSlot.none := by
  obtain ⟨port, s3, s4, b, h3, h4, rfl⟩ := quietCycle_cases h
  obtain ⟨-, hmw⟩ := stallOrFetch_latches h4
  obtain ⟨hA, hB⟩ := stallOrFetch_slots h4
  rw [endCycle_de, hA, hB]
  exact beforeFetch_slots_of_mw_invalid h3 (hmw ▸ hv)

/-- A step that fetches the sentinel leaves the pc where it read the program source (R153). -/
theorem quietStep_pc_of_sentinel {s t : State} (hs : s.fault = false) (h : step s = .next t) (ht : t.fault = false)
    (hnop : Token.ofCode (fetchRaw s).tok = .nop) : t.pc = fetchAddr s := by
  obtain ⟨s3, s4, b, h3, h4, rfl⟩ := quietStep_cases hs h ht
  rcases stallOrFetch_cases h4 with ⟨d, hd, -⟩ | ⟨-, rfl, -⟩ | ⟨d, hd, -⟩
  · exact absurd hnop (tok_ne_nop_of_decodes hd)
  · exact (beforeFetch_pc h3 : s3.pc = fetchAddr s)
  · exact absurd hnop (tok_ne_nop_of_decodes hd)

/-- What a block is after a cycle that answered `still_active = 0` without a fault. -/
structure Terminated (s : State) : Prop where
  drained : Drained s
  sentinel : SentinelAt s s.pc
  fwdA : s.de.fwdA = FwdSlot.none
  fwdB : s.de.fwdB = FwdSlot.none
  inactive : s.stillActive = false

theorem terminated_of_inactive {s t : State} (hs : s.fault = false) (h : step s = .next t) (ht : t.fault = false)
    (hact : t.stillActive = false) : Terminated t := by
  have hq : QuietCycle s t := ⟨.inl h, hs, ht⟩
  obtain ⟨hfd, hde, hem, hmw⟩ := anyValid_eq_false_iff.mp ((quietCycle_stillActive hq).symm.trans hact)
  have hnop := (quietStep_fd_invalid_iff hs h ht).mp hfd
  have hsent : SentinelAt t t.pc := by
    rw [quietStep_pc_of_sentinel hs h ht hnop]
    exact sentinelAt_of_prog_eq hnop (cycleTo_prog (.inl h))
  obtain ⟨hA, hB⟩ := quietCycle_slots_of_mw_invalid hq hmw
  exact ⟨⟨ht, hfd, hde, hem, hmw⟩, hsent, hA, hB, hact⟩

theorem Terminated.step_eq {s : State} (h : Terminated s) : step s = .next { s with cycle := s.cycle + 1 } := by
  obtain ⟨hdr, hs, hA, hB, hact⟩ := h
  rw [step_drained_at_sentinel hdr hs]
  obtain ⟨-, hfd, hde, hem, hmw⟩ := hdr
  have hsetFwd : s.setFwd s.de.fwdA s.de.fwdB = s := rfl
  rw [hA, hB] at hsetFwd
  have hclearFD : s.clearFD = s := by simp [State.clearFD, ← hfd]
  rw [hsetFwd, hclearFD]
  simp [State.endCycle, hde, hem, hmw, hact]

theorem Terminated.cycle {s : State} (h : Terminated s) (c : Nat) : Terminated { s with cycle := c } :=
  ⟨h.drained, h.sentinel, h.fwdA, h.fwdB, h.inactive⟩

theorem Terminated.runs_eq {s : State} (h : Terminated s) (n : Nat) :
    runs n s = .next { s with cycle := s.cycle + n } := by
  induction n generalizing s with
  | zero => exact runs_zero s
  | succ n ih =>
    rw [runs_succ h.step_eq, ih (h.cycle _)]
    simp only [Nat.add_assoc, Nat.add_comm 1 n]

/-- Settles O32: such a block is `Terminated`, and each further cycle adds 1 to the cycle count. -/
theorem terminatedBlockIsAFixpoint : Obligations.TerminatedBlockIsAFixpoint := by
  intro s t hs h ht hact
  have hterm := terminated_of_inactive hs h ht hact
  exact ⟨hterm.drained, hterm.sentinel, hterm.runs_eq⟩

/-! ### No stop under the invariant (R150, R287) -/

/-- Where FD decodes, a cycle that does not finish raised one of the three faults. -/
theorem subSteps_error_raises {port : Raw} {s : State} {a : Abort} (h : subSteps port s = .error a)
    (hfd : s.fd.valid = true → decodes s.fd.raw = true) : ∃ r, a = .raise r := by
  cases h1 : memory (writeback s) with
  | error a' =>
    simp only [subSteps, beforeFetch, h1] at h
    cases h
    rcases memory_error h1 with ⟨-, -, -, rfl⟩ | ⟨-, -, rfl⟩ <;> exact ⟨_, rfl⟩
  | ok s1 =>
    obtain ⟨s3, h3⟩ := beforeFetch_of_memory_ok h1 hfd
    simp only [subSteps, h3] at h
    obtain ⟨e, hne, -, rfl⟩ := stallOrFetch_error h
    cases e with
    | sentinel => exact absurd rfl hne
    | unknownMnemonic c => exact ⟨_, rfl⟩
    | registerOutOfRange f => exact ⟨_, rfl⟩

theorem advance_answers {s : State} (hfd : s.fd.valid = true → decodes s.fd.raw = true) (port : Raw) :
    ∃ t, advance port s = .next t := by
  unfold advance
  split
  · exact ⟨s, rfl⟩
  · cases h : subSteps port s with
    | ok p => exact ⟨_, rfl⟩
    | error a =>
      obtain ⟨r, rfl⟩ := subSteps_error_raises h hfd
      exact ⟨_, rfl⟩

/-- Settles O47: the invariant's decoded FD rules out the one stop, whatever stands on the program port. -/
theorem invNeverStops : Obligations.InvNeverStops := by
  intro s hinv
  obtain ⟨-, -, ⟨hfd, -⟩, -⟩ := hinv
  refine ⟨?_, fun i => ?_⟩
  · rw [step_eq_advance]
    exact advance_answers hfd _
  · rw [exec_eq_advance]
    exact advance_answers hfd _

/-! ### The halted block (R162, R284) -/

theorem advance_halted {s : State} (h : s.fault = true) (port : Raw) : advance port s = .next s := by
  simp [advance, h]

theorem step_halted {s : State} (h : s.fault = true) : step s = .next s :=
  (step_eq_advance s).trans (advance_halted h _)

/-- Settles O25: `advance` asks the fault flag first, and the record's agreement gives `still_active`. -/
theorem haltedBlockDoesNothing : Obligations.HaltedBlockDoesNothing := by
  intro s hrecord hf
  obtain ⟨-, hinactive⟩ := hrecord
  exact ⟨hinactive hf, step_halted hf, fun i => (exec_eq_advance i s).trans (advance_halted hf _)⟩

end Sys2Proof.Machine

/-! PROOFS. The timing of straight-line code (40_pipeline.md R165, R166): runs taken apart into cycles, and a program that
moves through the latches at one line a cycle. -/

namespace Sys2Proof.Machine

/-! ### Runs, cycle by cycle -/

theorem step_not_refused (s : State) (r : Refusal) : step s ≠ .refused r := by
  rw [step_eq_advance]
  exact advance_not_refused _ s r

theorem runs_one (s : State) : runs 1 s = step s := by
  cases h : step s with
  | next t => exact runs_succ h
  | fault f => exact runs_succ_fault h
  | refused r => exact absurd h (step_not_refused s r)

/-- A run that answers a next state does so after any first part of it. -/
theorem runs_split {m n : Nat} {s u : State} (h : runs (m + n) s = .next u) :
    ∃ t, runs m s = .next t ∧ runs n t = .next u := by
  induction m generalizing s with
  | zero => exact ⟨s, runs_zero s, by rwa [Nat.zero_add] at h⟩
  | succ m ih =>
    rw [Nat.add_right_comm] at h
    cases hstep : step s with
    | next s' =>
      rw [runs_succ hstep] at h
      obtain ⟨t, ht, hu⟩ := ih h
      exact ⟨t, (runs_succ hstep).trans ht, hu⟩
    | fault f => rw [runs_succ_fault hstep] at h; cases h
    | refused r => exact absurd hstep (step_not_refused s r)

theorem step_of_runs {n : Nat} {s t u : State} (ht : runs n s = .next t) (hu : runs (n + 1) s = .next u) :
    step t = .next u := by
  obtain ⟨t', ht', hstep⟩ := runs_split hu
  cases ht.symm.trans ht'
  rwa [runs_one] at hstep

theorem runs_halted {s : State} (h : s.fault = true) (n : Nat) : runs n s = .next s := by
  induction n with
  | zero => exact runs_zero s
  | succ n ih => rw [runs_succ (step_halted h), ih]

/-- The fault flag is sticky (R45), so a run that ends without a fault has met none on its way. -/
theorem runs_quiet_of_le {j n : Nat} {s last : State} (h : runs n s = .next last) (hlast : last.fault = false)
    (hj : j ≤ n) : ∃ t, runs j s = .next t ∧ t.fault = false := by
  obtain ⟨k, rfl⟩ := Nat.exists_eq_add_of_le hj
  obtain ⟨t, ht, hrest⟩ := runs_split h
  refine ⟨t, ht, ?_⟩
  cases hf : t.fault with
  | false => rfl
  | true =>
    rw [runs_halted hf] at hrest
    cases hrest
    exact hf.symm.trans hlast

/-! ### A line moves on by one latch a cycle (R144, R147, R149) -/

/-- The line and the address a latch holds, read off its view as EM. -/
theorem fdView_of_emView (l : Latch) : l.fdView = l.emView.map (fun v => { raw := v.raw, pc := v.pc }) := by
  cases h : l.valid <;> simp [Latch.fdView, Latch.emView, h]

/-- The line and the address a latch holds, read off its view as MW. -/
theorem fdView_of_mwView (l : Latch) : l.fdView = l.mwView.map (fun v => { raw := v.raw, pc := v.pc }) := by
  cases h : l.valid <;> simp [Latch.fdView, Latch.mwView, h]

theorem quietCycle_mwView {s t : State} (h : QuietCycle s t) : t.mw.mwView = nsMW s := by
  obtain ⟨port, s3, s4, b, h3, h4, rfl⟩ := quietCycle_cases h
  obtain ⟨-, hmw⟩ := stallOrFetch_latches h4
  rw [endCycle_mw, hmw, beforeFetch_mwView h3]

theorem quietCycle_mw_line {s t : State} (h : QuietCycle s t) : t.mw.fdView = s.em.fdView := by
  rw [fdView_of_mwView, quietCycle_mwView h]
  cases hv : s.em.valid <;> simp [nsMW, Latch.fdView, hv]

theorem quietCycle_em_line {s t : State} (h : QuietCycle s t) (ht : takesBranch s = false) :
    t.em.fdView = s.de.fdView := by
  rw [fdView_of_emView, quietCycle_emView h]
  cases hv : s.de.valid <;> simp [nsEM, nsTaken_eq, ht, Latch.fdView, hv]

/-- The bubble keeps the line and the address of the LW it was made from (R201). -/
theorem stallOrFetch_de_line {port : Raw} {s s1 : State} {b : Bool} (h : stallOrFetch port s = .ok (s1, b)) :
    s1.de.fdView = s.de.fdView := by
  rcases stallOrFetch_cases h with ⟨d, -, -, rfl, -⟩ | ⟨-, rfl, -⟩ | ⟨d, -, -, rfl, -⟩ <;> rfl

theorem quietCycle_de_line {s t : State} (h : QuietCycle s t) (ht : takesBranch s = false) :
    t.de.fdView = s.fd.fdView := by
  obtain ⟨port, s3, s4, b, h3, h4, rfl⟩ := quietCycle_cases h
  exact (stallOrFetch_de_line h4).trans (beforeFetch_de_line h3 ht)

theorem subSteps_cycle {port : Raw} {s s4 : State} {b : Bool} (h : subSteps port s = .ok (s4, b)) :
    s4.cycle = s.cycle := by
  refine subSteps_keeps (P := fun u => u.cycle = s.cycle) ?_ ?_ ?_ ?_ ?_ ?_ h rfl
  · exact fun u hu => (writeback_cycle u).trans hu
  · exact fun u u1 hmem hu => (memory_cycle hmem).trans hu
  · exact fun u hu => hu
  · intro u hu
    rcases execute_cases u with ⟨-, hex⟩ | ⟨-, hex⟩ <;> rw [hex] <;> exact hu
  · intro u u1 hid hu
    rcases decodeStage_cases hid with ⟨-, rfl⟩ | ⟨d, -, -, rfl⟩ <;> exact hu
  · intro p u u1 b' hif hu
    rcases stallOrFetch_cases hif with ⟨d, -, -, rfl, -⟩ | ⟨-, rfl, -⟩ | ⟨d, -, -, rfl, -⟩ <;> exact hu

theorem quietCycle_cycle {s t : State} (h : QuietCycle s t) : t.cycle = s.cycle + 1 := by
  obtain ⟨hcyc, hs, ht⟩ := h
  obtain ⟨port, hadv⟩ := advance_of_cycleTo hcyc
  obtain ⟨s4, b, hsub, rfl⟩ := advance_quiet hadv hs ht
  exact congrArg (· + 1) (subSteps_cycle hsub)

/-! ### The program in the latches -/

/-- The `i`th latch after `n` cycles, counting FD as 1 and MW as 4: it holds line `n - i` of `p` with its address, and
nothing before the first line reaches it or once the last one has left it. -/
structure HoldsLine (p : List Raw) (n i : Nat) (l : Latch) : Prop where
  valid_iff : l.valid = true ↔ i ≤ n ∧ n < p.length + i
  line : ∀ k (hk : k < p.length), n = k + i → l.raw = p[k] ∧ l.pc.toNat = 4 * k

theorem HoldsLine.moves {p : List Raw} {n i : Nat} {l l' : Latch} (h : HoldsLine p n i l)
    (hl : l'.fdView = l.fdView) : HoldsLine p (n + 1) (i + 1) l' := by
  obtain ⟨hvalid, hfields⟩ := fdView_eq_iff.mp hl
  have hiff : l'.valid = true ↔ i + 1 ≤ n + 1 ∧ n + 1 < p.length + (i + 1) := by
    rw [hvalid, h.valid_iff]
    omega
  refine ⟨hiff, fun k hk hn => ?_⟩
  obtain ⟨hraw, hpc⟩ := hfields (hiff.mpr (by omega))
  obtain ⟨hline, haddr⟩ := h.line k hk (by omega)
  exact ⟨hraw.trans hline, hpc ▸ haddr⟩

/-- Line `k` is in the `i`th latch after cycle `k + i`. -/
theorem HoldsLine.holds {p : List Raw} {k i : Nat} {l : Latch} (h : HoldsLine p (k + i) i l) (hk : k < p.length) :
    l.valid = true ∧ l.raw = p[k] ∧ l.pc.toNat = 4 * k :=
  ⟨h.valid_iff.mpr (by omega), h.line k hk rfl⟩

/-- The state after `n` cycles of a program that flows through the latches at one line a cycle. -/
structure Flows (p : List Raw) (n : Nat) (s : State) : Prop where
  prog : s.prog = p
  pc : s.pc.toNat = 4 * min n p.length
  cycle : s.cycle = n
  fd : HoldsLine p n 1 s.fd
  de : HoldsLine p n 2 s.de
  em : HoldsLine p n 3 s.em
  mw : HoldsLine p n 4 s.mw
  active : 1 ≤ n → s.stillActive = anyValid s

theorem holdsLine_empty (p : List Raw) {i : Nat} (hi : 1 ≤ i) : HoldsLine p 0 i Latch.empty := by
  refine ⟨?_, fun k _ h => by omega⟩
  simp only [Latch.empty, Bool.false_eq_true, false_iff]
  omega

theorem flows_reset (p : List Raw) : Flows p 0 { State.reset with prog := p } where
  prog := rfl
  pc := by simp [State.reset]
  cycle := rfl
  fd := holdsLine_empty p (by decide)
  de := holdsLine_empty p (by decide)
  em := holdsLine_empty p (by decide)
  mw := holdsLine_empty p (by decide)
  active := nofun

/-- The lines of a program with at least one are in the block from cycle 1 to cycle `K + 3`. -/
theorem Flows.anyValid_eq {p : List Raw} {n : Nat} {s : State} (h : Flows p n s) (hp : 1 ≤ p.length) (hn : 1 ≤ n) :
    anyValid s = decide (n < p.length + 4) := by
  rw [Bool.eq_iff_iff]
  simp only [anyValid, Bool.or_eq_true, h.fd.valid_iff, h.de.valid_iff, h.em.valid_iff, h.mw.valid_iff,
    decide_eq_true_eq]
  omega

theorem Flows.progAt_line {p : List Raw} {n : Nat} {s : State} (h : Flows p n s) (hn : n < p.length) :
    s.progAt s.pc = p[n] := by
  have hix : s.pc.toNat / Config.ilen = n := by rw [h.pc, Config.ilen]; omega
  rw [State.progAt, h.prog, hix, List.getD_eq_getElem p _ hn]

theorem Flows.progAt_end {p : List Raw} {n : Nat} {s : State} (h : Flows p n s) (hn : p.length ≤ n) :
    s.progAt s.pc = Raw.sentinel :=
  progAt_past_end (by rw [h.prog, h.pc, Config.ilen]; omega)

/-- What the cycle fetches: line `n` with the pc on to line `n + 1`, or nothing once the program is at its end. -/
theorem Flows.fetches {p : List Raw} {n : Nat} {s t : State} (h : Flows p n s) (hlen : p.length < 2 ^ 30)
    (hreal : ∀ r ∈ p, Token.ofCode r.tok ≠ .nop) (hs : s.fault = false) (hstep : step s = .next t)
    (ht : t.fault = false) (hstall : stalls s = false) (htaken : takesBranch s = false) :
    t.pc.toNat = 4 * min (n + 1) p.length ∧ HoldsLine p (n + 1) 1 t.fd := by
  obtain ⟨-, hend, hfetch⟩ := pcChangesInThreeWays s t hs hstep ht
  have hraw : fetchRaw s = s.progAt s.pc := by rw [fetchRaw, fetchAddr_of_not_takesBranch htaken]
  simp only [htaken, Bool.false_eq_true, if_false] at hend hfetch
  have hpc := h.pc
  by_cases hn : n < p.length
  · rw [h.progAt_line hn] at hraw
    obtain ⟨hpc4, hvalid, hfdraw, hfdpc⟩ := hfetch hstall (hraw ▸ hreal _ (List.getElem_mem hn))
    have h4 : (s.pc + 4).toNat = (s.pc.toNat + 4) % 2 ^ 32 := BitVec.toNat_add s.pc 4
    refine ⟨by rw [hpc4]; omega, iff_of_true hvalid (by omega), fun k hk hnk => ?_⟩
    obtain rfl : n = k := by omega
    exact ⟨hfdraw.trans hraw, by rw [hfdpc]; omega⟩
  · rw [h.progAt_end (by omega)] at hraw
    have hnop : Token.ofCode (fetchRaw s).tok = .nop := by rw [hraw]; rfl
    have hinvalid := (quietStep_fd_invalid_iff hs hstep ht).mpr hnop
    exact ⟨by rw [hend hnop]; omega, iff_of_false (by simp [hinvalid]) (by omega), fun k hk hnk => by omega⟩

/-- One cycle without a stall, a taken branch or a fault moves every line on by one latch (R165). -/
theorem Flows.step {p : List Raw} {n : Nat} {s t : State} (h : Flows p n s) (hlen : p.length < 2 ^ 30)
    (hreal : ∀ r ∈ p, Token.ofCode r.tok ≠ .nop) (hs : s.fault = false) (hstep : step s = .next t)
    (ht : t.fault = false) (hstall : stalls s = false) (htaken : takesBranch s = false) : Flows p (n + 1) t := by
  have hq : QuietCycle s t := ⟨.inl hstep, hs, ht⟩
  obtain ⟨hpc, hfd⟩ := h.fetches hlen hreal hs hstep ht hstall htaken
  exact {
    prog := (cycleTo_prog hq.1).trans h.prog
    pc := hpc
    cycle := by rw [quietCycle_cycle hq, h.cycle]
    fd := hfd
    de := h.fd.moves (quietCycle_de_line hq htaken)
    em := h.de.moves (quietCycle_em_line hq htaken)
    mw := h.em.moves (quietCycle_mw_line hq)
    active := fun _ => quietCycle_stillActive hq }

/-- The run from reset of a straight-line program, by induction on its cycles. -/
theorem flows_runs {p : List Raw} {last : State} {N : Nat} (hlen : p.length < 2 ^ 30)
    (hreal : ∀ r ∈ p, Token.ofCode r.tok ≠ .nop) (hlast : runs N { State.reset with prog := p } = .next last)
    (hf : last.fault = false)
    (hstraight : ∀ j t, j < N → runs j { State.reset with prog := p } = .next t →
      stalls t = false ∧ takesBranch t = false)
    (n : Nat) (hn : n ≤ N) :
    ∃ t, runs n { State.reset with prog := p } = .next t ∧ t.fault = false ∧ Flows p n t := by
  induction n with
  | zero => exact ⟨_, runs_zero _, rfl, flows_reset p⟩
  | succ n ih =>
    obtain ⟨s, hruns, hs, hflows⟩ := ih (Nat.le_of_succ_le hn)
    obtain ⟨t, ht, htf⟩ := runs_quiet_of_le hlast hf hn
    obtain ⟨hstall, htaken⟩ := hstraight n s hn hruns
    exact ⟨t, ht, htf, hflows.step hlen hreal hs (step_of_runs hruns ht) htf hstall htaken⟩

/-- Settles O35: the run is a flow, which says where each line is and when the block is active; WB is the one writer of
the registers. With the sentinel first, the drained block fetches nothing. -/
theorem straightLineTiming : Obligations.StraightLineTiming := by
  refine ⟨?_, fun s hdr hs => ⟨_, step_drained_at_sentinel hdr hs, ?_⟩⟩
  · intro p last s0 hp hlen hreal hlast hf hstraight
    have hflow := flows_runs hlen hreal hlast hf hstraight
    refine ⟨fun n h1 hn => ?_, fun k hk => ?_⟩
    · obtain ⟨t, ht, htf, h⟩ := hflow n hn
      exact ⟨t, ht, h.cycle, htf, (h.active h1).trans (h.anyValid_eq hp h1)⟩
    · obtain ⟨t1, hr1, -, h1⟩ := hflow (k + 1) (by omega)
      obtain ⟨t2, hr2, -, h2⟩ := hflow (k + 2) (by omega)
      obtain ⟨t3, hr3, -, h3⟩ := hflow (k + 3) (by omega)
      obtain ⟨t4, hr4, hf4, h4⟩ := hflow (k + 4) (by omega)
      obtain ⟨t5, hr5, hf5, -⟩ := hflow (k + 5) (by omega)
      obtain ⟨hv1, hraw1, hpc1⟩ := h1.fd.holds hk
      obtain ⟨hv2, hraw2, hpc2⟩ := h2.de.holds hk
      obtain ⟨hv3, hraw3, hpc3⟩ := h3.em.holds hk
      obtain ⟨hv4, hraw4, hpc4⟩ := h4.mw.holds hk
      have hq : QuietCycle t4 t5 := ⟨.inl (step_of_runs hr4 hr5), hf4, hf5⟩
      refine ⟨t1, t2, t3, t4, t5, hr1, hr2, hr3, hr4, hr5, hv1, hraw1, hpc1, hv2, hraw2, hpc2, hv3, hraw3, hpc3,
        hv4, hraw4, hpc4, ?_⟩
      rw [quietCycle_regs hq]
      simp [nsX1, hv4]
  · obtain ⟨-, -, hde, hem, hmw⟩ := hdr
    simp [hde, hem, hmw]

end Sys2Proof.Machine

/-! PROOFS. The load-use stall (41_hazard_unit.md R200 to R205): the condition read off the state at the start of the
cycle, the stall that repeats until a flush, and the livelock. -/

namespace Sys2Proof.Machine

/-! ### The condition (R200, R203, R204) -/

/-- ID hands on what FD decodes to, unless a branch flushes it (R149, R264). -/
theorem nsD1_eq_some_iff {s : State} {v : DeView} :
    nsD1 s = some v ↔
      takesBranch s = false ∧ s.fd.valid = true ∧
      ∃ d, decodeRecord s.fd.raw = .ok d ∧ v = { raw := s.fd.raw, dec := d, pc := s.fd.pc } := by
  rw [nsD1, nsTaken_eq]
  cases hv : s.fd.valid <;> cases ht : takesBranch s <;> cases hd : decodeRecord s.fd.raw <;> simp [eq_comm]

/-- A stall needs an instruction in DE, and the peeked one. -/
theorem nsStall_some {s : State} {d : Decoded} :
    nsStall s (some d) = true ↔ ∃ v, nsD1 s = some v ∧ v.dec.op = .lw ∧ (v.dec.rd = d.rs1 ∨ v.dec.rd = d.rs2) := by
  cases hv : nsD1 s <;> simp [nsStall, hv]

/-- The `st` of R164, spelled out for a peeked instruction. -/
theorem nsStall_some_iff {s : State} {d : Decoded} :
    nsStall s (some d) = true ↔
      takesBranch s = false ∧ s.fd.valid = true ∧
      ∃ lw, decodeRecord s.fd.raw = .ok lw ∧ lw.op = .lw ∧ (lw.rd = d.rs1 ∨ lw.rd = d.rs2) := by
  rw [nsStall_some]
  constructor
  · rintro ⟨v, hv, hop, hrd⟩
    obtain ⟨ht, hfd, lw, hlw, rfl⟩ := nsD1_eq_some_iff.mp hv
    exact ⟨ht, hfd, lw, hlw, hop, hrd⟩
  · rintro ⟨ht, hfd, lw, hlw, hop, hrd⟩
    exact ⟨_, nsD1_eq_some_iff.mpr ⟨ht, hfd, lw, hlw, rfl⟩, hop, hrd⟩

theorem stalls_eq_stallsOn {s : State} (hf : s.fault = false) : stalls s = stallsOn (fetchRaw s) s := by
  simp [stalls, hf]

/-- A stall, taken apart: STALL_IF finds the peeked instruction to depend on the LW that ID moved into DE. -/
theorem stalls_cases {s : State} (h : stalls s = true) :
    s.fault = false ∧ ∃ s3 d, beforeFetch s = .ok s3 ∧ decodeRecord (fetchRaw s) = .ok d ∧
      nsStall s (some d) = true := by
  simp only [stalls, Bool.and_eq_true, Bool.not_eq_true'] at h
  obtain ⟨hf, hon⟩ := h
  obtain ⟨s3, d, h3, hd, hlu⟩ := stallsOn_cases hon
  exact ⟨hf, s3, d, h3, hd, loadUse_eq_nsStall h3 _ ▸ hlu⟩

theorem takesBranch_of_stalls {s : State} (h : stalls s = true) : takesBranch s = false := by
  obtain ⟨-, s3, d, -, -, hst⟩ := stalls_cases h
  exact takesBranch_of_nsStall hst

theorem fetchRaw_of_not_takesBranch {s : State} (ht : takesBranch s = false) : fetchRaw s = s.progAt s.pc := by
  rw [fetchRaw, fetchAddr_of_not_takesBranch ht]

/-- A LW in FD whose `rd` the instruction at the pc names in a source field, unpopulated zeros included. -/
def LoadUseInFD (s : State) : Prop :=
  s.fd.valid = true ∧
    ∃ lw next, decodeRecord s.fd.raw = .ok lw ∧ lw.op = .lw ∧ decodeRecord (s.progAt s.pc) = .ok next ∧
      (lw.rd = next.rs1 ∨ lw.rd = next.rs2)

theorem loadUseInFD_of_stalls {s : State} (h : stalls s = true) : LoadUseInFD s := by
  obtain ⟨-, s3, d, -, hd, hst⟩ := stalls_cases h
  obtain ⟨ht, hfd, lw, hlw, hop, hrd⟩ := nsStall_some_iff.mp hst
  exact ⟨hfd, lw, d, hlw, hop, fetchRaw_of_not_takesBranch ht ▸ hd, hrd⟩

theorem stalls_of_loadUseInFD {s s3 : State} (h : LoadUseInFD s) (hf : s.fault = false) (h3 : beforeFetch s = .ok s3)
    (ht : takesBranch s = false) : stalls s = true := by
  obtain ⟨hfd, lw, d, hlw, hop, hd, hrd⟩ := h
  rw [← fetchRaw_of_not_takesBranch ht] at hd
  rw [stalls_eq_stallsOn hf, stallsOn_of_decodes h3 hd, loadUse_eq_nsStall h3]
  exact nsStall_some_iff.mpr ⟨ht, hfd, lw, hlw, hop, hrd⟩

/-- FD of such a state decodes, so ID does not raise. -/
theorem LoadUseInFD.beforeFetch_ok {s s1 : State} (h : LoadUseInFD s) (h1 : memory (writeback s) = .ok s1) :
    ∃ s3, beforeFetch s = .ok s3 := by
  obtain ⟨-, lw, -, hlw, -⟩ := h
  exact beforeFetch_of_memory_ok h1 fun _ => by simp [decodes, hlw]

/-- The condition reads FD, the pc and the program alone. -/
theorem LoadUseInFD.congr {s t : State} (h : LoadUseInFD s) (hfd : t.fd = s.fd) (hpc : t.pc = s.pc)
    (hprog : t.prog = s.prog) : LoadUseInFD t := by
  simpa only [LoadUseInFD, State.progAt, hfd, hpc, hprog] using h

/-- Settles O16: the condition of STALL_IF, with what ID put into DE read off FD. -/
theorem stallsExactlyOnLoadUse : Obligations.StallsExactlyOnLoadUse := by
  intro s hf ⟨s3, h3⟩
  exact ⟨fun h => ⟨takesBranch_of_stalls h, loadUseInFD_of_stalls h⟩,
    fun ⟨ht, h⟩ => stalls_of_loadUseInFD h hf h3 ht⟩

/-- ADDI, LW and LUI do not populate `rs2`, which is then 0 (R105, R106). -/
theorem rs2_of_decoded_immediate {r : Raw} {d : Decoded} (h : decodeRecord r = .ok d)
    (hop : d.op = .addi ∨ d.op = .lw ∨ d.op = .lui) : d.rs2 = 0 := by
  obtain ⟨i, -, rfl⟩ := decodeRecord_cases h
  cases i <;> simp [Instr.record] at hop ⊢

/-- Settles O17: in each case one of the two fields that the condition compares is the LW's `rd`. -/
theorem zeroFieldsCountForTheStall : Obligations.ZeroFieldsCountForTheStall := by
  intro de r d hv hop hd
  refine ⟨fun hrd hnext => loadUse_some.mpr ⟨hv, hop, ?_⟩, fun _ hrs => loadUse_some.mpr ⟨hv, hop, ?_⟩⟩
  · rw [hrd]
    rcases hnext with h | h | h | h | h
    · exact .inr (rs2_of_decoded_immediate hd (.inl h)).symm
    · exact .inr (rs2_of_decoded_immediate hd (.inr (.inl h))).symm
    · exact .inr (rs2_of_decoded_immediate hd (.inr (.inr h))).symm
    · exact .inl h.symm
    · exact .inr h.symm
  · rcases hrs with h | h
    · exact .inr h.symm
    · exact .inl h.symm

/-! ### The stall repeats (R202) -/

/-- A stall leaves FD, the pc and the program, and so the dependence that stalled it. -/
theorem LoadUseInFD.of_stall {s t : State} (h : stalls s = true) (hstep : step s = .next t) : LoadUseInFD t := by
  obtain ⟨t', ht', -, hfd, hpc, -⟩ := stallInsertsTheBubble s h
  cases hstep.symm.trans ht'
  exact (loadUseInFD_of_stalls h).congr hfd hpc (cycleTo_prog (.inl hstep))

/-- Settles O19: the dependence outlives the stall, and only a taken branch keeps the LW from DE. -/
theorem stallRepeatsUntilAFlush : Obligations.StallRepeatsUntilAFlush := by
  intro s t h hstep
  refine ⟨fun ht => ?_, fun ht ⟨t1, h1⟩ => ?_⟩
  · cases hst : stalls t with
    | false => rfl
    | true => exact absurd (takesBranch_of_stalls hst) (by simp [ht])
  · have hdep := LoadUseInFD.of_stall h hstep
    obtain ⟨t', ht', hf, -⟩ := stallInsertsTheBubble s h
    cases hstep.symm.trans ht'
    obtain ⟨t3, h3⟩ := hdep.beforeFetch_ok h1
    exact stalls_of_loadUseInFD hdep hf h3 ht

/-! ### The livelock (R202, R330) -/

/-- A run is continued from the state its first part reaches. -/
theorem runs_append {m : Nat} {s t : State} (h : runs m s = .next t) (n : Nat) : runs (m + n) s = runs n t := by
  induction m generalizing s with
  | zero =>
    cases h
    rw [Nat.zero_add]
  | succ m ih =>
    rw [Nat.add_comm m 1] at h
    obtain ⟨s', hs', hrest⟩ := runs_split h
    rw [runs_one] at hs'
    rw [Nat.add_right_comm, runs_succ hs', ih hrest]

/-- A latch whose instruction, if any, is ADD, ADDI or LUI: it neither accesses the memory nor branches. -/
def Harmless (l : Latch) : Prop := l.valid = true → l.dec.op = .add ∨ l.dec.op = .addi ∨ l.dec.op = .lui

/-- A latch that holds the bubble of R201. -/
def HoldsBubble (l : Latch) : Prop := l.valid = true ∧ l.dec = Decoded.zero

theorem HoldsBubble.harmless {l : Latch} (h : HoldsBubble l) : Harmless l := by
  obtain ⟨-, hdec⟩ := h
  exact fun _ => .inl (by rw [hdec]; rfl)

theorem takesBranch_of_harmless {s : State} (h : Harmless s.em) : takesBranch s = false := by
  cases hv : s.em.valid with
  | false => simp [takesBranch, hv]
  | true => rcases h hv with hop | hop | hop <;> simp [takesBranch, branchTaken, hop]

theorem memory_ok_of_harmless {s : State} (h : Harmless s.em) : ∃ s1, memory (writeback s) = .ok s1 := by
  cases hv : s.em.valid with
  | false => exact ⟨_, memory_invalid (by simpa using hv)⟩
  | true =>
    refine ⟨_, memory_plain (by simpa using hv) ?_ ?_ (by simpa using takesBranch_of_harmless h)⟩ <;>
      rcases h hv with hop | hop | hop <;> simp [hop]

theorem nsMem_of_harmless {s : State} (h : Harmless s.em) : nsMem s = s.mem := by
  cases hv : s.em.valid with
  | false => simp [nsMem, hv]
  | true => rcases h hv with hop | hop | hop <;> simp [nsMem, hop]

theorem quietCycle_nsMem {s t : State} (h : QuietCycle s t) : t.mem = nsMem s := by
  obtain ⟨s1, h1, hmem⟩ := quietCycle_mem h
  exact hmem.trans (memory_mem h1)

/-- EM takes over the instruction in DE unless a branch flushes it (R147, R264). -/
theorem quietCycle_em_dec {s t : State} (h : QuietCycle s t) (ht : takesBranch s = false) :
    t.em.valid = s.de.valid ∧ (s.de.valid = true → t.em.dec = s.de.dec) := by
  obtain ⟨hvalid, -⟩ := fdView_eq_iff.mp (quietCycle_em_line h ht)
  obtain ⟨hfill, -⟩ := executeComputesIntoEM s t h
  refine ⟨hvalid, fun hv => ?_⟩
  obtain ⟨-, -, hdec, -⟩ := hfill hv ht
  exact hdec

/-- MW takes over the instruction in EM (R144). -/
theorem quietCycle_mw_dec {s t : State} (h : QuietCycle s t) :
    t.mw.valid = s.em.valid ∧ (s.em.valid = true → t.mw.dec = s.em.dec) := by
  obtain ⟨hvalid, -⟩ := fdView_eq_iff.mp (quietCycle_mw_line h)
  obtain ⟨-, hfill⟩ := memoryStageFillsMW s t h
  refine ⟨hvalid, fun hv => ?_⟩
  obtain ⟨-, -, hdec, -⟩ := hfill hv
  exact hdec

theorem HoldsBubble.to_em {s t : State} (h : HoldsBubble s.de) (hq : QuietCycle s t) (ht : takesBranch s = false) :
    HoldsBubble t.em := by
  obtain ⟨hv, hdec⟩ := h
  obtain ⟨hvalid, hkeep⟩ := quietCycle_em_dec hq ht
  exact ⟨hvalid.trans hv, (hkeep hv).trans hdec⟩

theorem HoldsBubble.to_mw {s t : State} (h : HoldsBubble s.em) (hq : QuietCycle s t) : HoldsBubble t.mw := by
  obtain ⟨hv, hdec⟩ := h
  obtain ⟨hvalid, hkeep⟩ := quietCycle_mw_dec hq
  exact ⟨hvalid.trans hv, (hkeep hv).trans hdec⟩

/-- The block `n` cycles after `s`, a LW in FD having stalled in every one: the bubbles have filled the first `n`
latches in front of FD, and nothing that could end the stall is in flight. -/
structure Livelocked (s : State) (n : Nat) (t : State) : Prop where
  dependent : LoadUseInFD t
  fault : t.fault = false
  cycle : t.cycle = s.cycle + n
  fd : t.fd = s.fd
  pc : t.pc = s.pc
  mem : t.mem = s.mem
  active : 0 < n → t.stillActive = true
  de : Harmless t.de
  em : Harmless t.em
  bubble_de : 1 ≤ n → HoldsBubble t.de
  bubble_em : 2 ≤ n → HoldsBubble t.em
  bubble_mw : 3 ≤ n → HoldsBubble t.mw

theorem stalls_of_livelocked {s t : State} {n : Nat} (h : Livelocked s n t) : stalls t = true := by
  obtain ⟨s1, h1⟩ := memory_ok_of_harmless h.em
  obtain ⟨s3, h3⟩ := h.dependent.beforeFetch_ok h1
  exact stalls_of_loadUseInFD h.dependent h.fault h3 (takesBranch_of_harmless h.em)

theorem Livelocked.next {s t : State} {n : Nat} (h : Livelocked s n t) :
    ∃ u, step t = .next u ∧ Livelocked s (n + 1) u := by
  have hst := stalls_of_livelocked h
  have ht := takesBranch_of_harmless h.em
  obtain ⟨u, hstep, hf, hfd, hpc, hact, hde, -, -, hdec⟩ := stallInsertsTheBubble t hst
  have hq : QuietCycle t u := ⟨.inl hstep, h.fault, hf⟩
  obtain ⟨hvem, hdem⟩ := quietCycle_em_dec hq ht
  have hbubble : HoldsBubble u.de := ⟨hde, hdec⟩
  refine ⟨u, hstep, {
    dependent := LoadUseInFD.of_stall hst hstep
    fault := hf
    cycle := by rw [quietCycle_cycle hq, h.cycle, Nat.add_assoc]
    fd := hfd.trans h.fd
    pc := hpc.trans h.pc
    mem := (quietCycle_nsMem hq).trans ((nsMem_of_harmless h.em).trans h.mem)
    active := fun _ => hact
    de := hbubble.harmless
    em := fun hv => ?_
    bubble_de := fun _ => hbubble
    bubble_em := fun hn => (h.bubble_de (by omega)).to_em hq ht
    bubble_mw := fun hn => (h.bubble_em (by omega)).to_mw hq }⟩
  rw [hdem (hvem ▸ hv)]
  exact h.de (hvem ▸ hv)

theorem livelocked_runs {s : State} (h : Livelocked s 0 s) (n : Nat) :
    ∃ t, runs n s = .next t ∧ Livelocked s n t := by
  induction n with
  | zero => exact ⟨s, runs_zero s, h⟩
  | succ n ih =>
    obtain ⟨t, hruns, ht⟩ := ih
    obtain ⟨u, hstep, hu⟩ := ht.next
    exact ⟨u, (runs_append hruns 1).trans ((runs_one t).trans hstep), hu⟩

/-- Settles O20: `Livelocked` holds at the start with no bubble yet, and each stalled cycle pushes one more in. -/
theorem loadUseLivelock : Obligations.LoadUseLivelock := by
  intro s lw next hf hfd hlw hop hnext hrd hde hem n
  have hstart : Livelocked s 0 s := {
    dependent := ⟨hfd, lw, next, hlw, hop, hnext, hrd⟩
    fault := hf
    cycle := rfl
    fd := rfl
    pc := rfl
    mem := rfl
    active := nofun
    de := hde
    em := hem
    bubble_de := nofun
    bubble_em := nofun
    bubble_mw := nofun }
  obtain ⟨t, hruns, h⟩ := livelocked_runs hstart n
  refine ⟨t, hruns, h.cycle, h.fault, h.fd, h.pc, h.mem, h.active, fun hn => ?_⟩
  obtain ⟨hvde, hdde⟩ := h.bubble_de (by omega)
  obtain ⟨hvem, hdem⟩ := h.bubble_em (by omega)
  obtain ⟨hvmw, hdmw⟩ := h.bubble_mw hn
  exact ⟨hvde, hdde, hvem, hdem, hvmw, hdmw⟩

end Sys2Proof.Machine

/-! PROOFS. The forwarding arbiter and the peek (41_hazard_unit.md R190, R191, R205; 60_exceptions.md R280): rule 1
shadows rule 2, it never finds a loaded value that DE reads, and a line that does not decode raises. -/

namespace Sys2Proof.Machine

/-! ### Rule 1 shadows rule 2 (R191) -/

/-- After MEM a valid EM holds the instruction that MW has taken over. -/
theorem em_of_memory {s s1 : State} (h : memory s = .ok s1) (hv : s1.em.valid = true) :
    s.em.valid = true ∧ s1.em = s.em := by
  cases ht : takesBranch s with
  | true =>
    obtain ⟨-, -, hno⟩ := memory_latches_of_takesBranch h ht
    simp [hno] at hv
  | false =>
    obtain ⟨-, -, hsame⟩ := memory_latches_of_not_takesBranch h ht
    exact ⟨hsame ▸ hv, hsame⟩

theorem emForwards_cases {l : Latch} {r : RegIx} (h : emForwards l r = true) :
    l.valid = true ∧ forwardsFromEM l.dec.op = true := by
  simp only [emForwards, Bool.and_eq_true] at h
  obtain ⟨⟨⟨hv, hop⟩, -⟩, -⟩ := h
  exact ⟨hv, hop⟩

/-- Whatever rule 2 would forward after MEM, rule 1 forwards with the same value. -/
theorem mwForwards_of_memory_emForwards {s s1 : State} {src : RegIx} (h : memory s = .ok s1)
    (hem : emForwards s1.em src = true) : mwForwards s1.mw src = true ∧ mwResult s1.mw = s1.em.alu := by
  obtain ⟨hv1, hop⟩ := emForwards_cases hem
  obtain ⟨hv, hsame⟩ := em_of_memory h hv1
  rw [hsame] at hem hop ⊢
  refine ⟨(mwForwards_of_memory h src).trans (mwForwards_of_emForwards hem), ?_⟩
  rw [mwResult_of_memory h hv, if_neg]
  intro hlw
  simp [hlw, forwardsFromEM] at hop

theorem fwdSelect_ne_fromEM {s s1 : State} (h : memory s = .ok s1) (src : RegIx) :
    (fwdSelect s1.mw s1.em src).sel ≠ .fromEM := by
  rcases fwdSelect_cases s1.mw s1.em src with ⟨-, hsel⟩ | ⟨hmw, hem, -⟩ | ⟨-, -, hsel⟩
  · simp [hsel]
  · obtain ⟨hyes, -⟩ := mwForwards_of_memory_emForwards h hem
    simp [hmw] at hyes
  · simp [hsel, FwdSlot.none]

/-- FWD alone writes the slots of DE (R146). -/
theorem beforeFetch_slots {s s1 s3 : State} (h1 : memory (writeback s) = .ok s1) (h : beforeFetch s = .ok s3) :
    s3.de.fwdA = fwdSelect s1.mw s1.em s1.de.dec.rs1 ∧ s3.de.fwdB = fwdSelect s1.mw s1.em s1.de.dec.rs2 := by
  rw [beforeFetch_eq h1] at h
  rcases decodeStage_cases h with ⟨-, rfl⟩ | ⟨d, -, -, rfl⟩ <;> simp [forward]

theorem quietCycle_slots_ne_fromEM {s t : State} (h : QuietCycle s t) :
    t.de.fwdA.sel ≠ .fromEM ∧ t.de.fwdB.sel ≠ .fromEM := by
  obtain ⟨port, s3, s4, b, h3, h4, rfl⟩ := quietCycle_cases h
  obtain ⟨s1, h1, -⟩ := beforeFetch_cases h3
  obtain ⟨hA, hB⟩ := beforeFetch_slots h1 h3
  obtain ⟨hA4, hB4⟩ := stallOrFetch_slots h4
  rw [endCycle_de, hA4, hB4, hA, hB]
  exact ⟨fwdSelect_ne_fromEM h1 _, fwdSelect_ne_fromEM h1 _⟩

/-- Settles O14: MEM has just copied EM into MW, so rule 1 comes first for whatever rule 2 would select. -/
theorem forwardingRuleTwoNeverSelected : Obligations.ForwardingRuleTwoNeverSelected :=
  ⟨fun _ _ src h => ⟨fwdSelect_ne_fromEM h src, mwForwards_of_memory_emForwards h⟩,
    fun _ _ => quietCycle_slots_ne_fromEM⟩

/-! ### Loaded values (R205) -/

/-- Rule 1 needs the producer to write the register it forwards. -/
theorem mwForwards_cases {l : Latch} {r : RegIx} (h : mwForwards l r = true) :
    l.valid = true ∧ writesReg l.dec.op = true ∧ l.dec.rd ≠ 0 ∧ l.dec.rd = r := by
  simpa only [mwForwards, Bool.and_eq_true, decide_eq_true_eq, and_assoc] using h

theorem mwForwards_eq_false_of_ne {l : Latch} {r : RegIx} (h : l.valid = true → r ≠ l.dec.rd) :
    mwForwards l r = false := by
  cases hm : mwForwards l r with
  | false => rfl
  | true =>
    obtain ⟨hv, -, -, hrd⟩ := mwForwards_cases hm
    exact absurd hrd.symm (h hv)

/-- A valid DE after MEM was not flushed. -/
theorem not_takesBranch_of_memory_de {s s1 : State} (h : memory s = .ok s1) (hv : s1.de.valid = true) :
    takesBranch s = false := by
  cases ht : takesBranch s with
  | false => rfl
  | true =>
    obtain ⟨-, hno, -⟩ := memory_latches_of_takesBranch h ht
    simp [hno] at hv

/-- Settles O21: a LW in MW stood in EM before MEM, where the invariant keeps it clear of DE. -/
theorem loadedValueNeverForwarded : Obligations.LoadedValueNeverForwarded := by
  rintro s s1 ⟨-, -, -, ⟨-, hspaced⟩, -, -⟩ h hde hlw
  obtain ⟨-, hsame, -⟩ := memory_latches_of_not_takesBranch h (not_takesBranch_of_memory_de h hde)
  rw [writeback_de] at hsame
  rw [hsame] at hde ⊢
  rw [mwForwards_of_memory h, mwForwards_of_memory h, writeback_em]
  have hclear : s.em.valid = true → s.de.dec.rs1 ≠ s.em.dec.rd ∧ s.de.dec.rs2 ≠ s.em.dec.rd := fun hv => by
    rw [memory_mw h (by simpa using hv)] at hlw
    exact hspaced hv (by simpa using hlw) hde
  exact ⟨mwForwards_eq_false_of_ne fun hv => (hclear hv).1, mwForwards_eq_false_of_ne fun hv => (hclear hv).2⟩

/-! ### The peek of a line that does not decode (R280) -/

/-- The step whose line the peek rejects records what the decoder found and the address it was read at. -/
theorem step_of_rejected {s s3 : State} {r : Raise} {e : Reject} (hf : s.fault = false) (h3 : beforeFetch s = .ok s3)
    (hd : decodeRecord (fetchRaw s) = .error e) (hr : decodeAbort (fetchAddr s) e = .raise r) :
    step s = .next (s.takeFault r) := by
  rw [fetchAddr_eq_nsPc1 h3] at hr
  exact (step_eq_advance s).trans (advance_of_rejected hf h3 hd hr)

/-- Settles O28: `step_of_rejected` for each of the two rejections that the peek raises. -/
theorem decodeErrorAtThePeek : Obligations.DecodeErrorAtThePeek := by
  refine ⟨rfl, rfl, rfl, fun s hf ⟨s3, h3⟩ => ⟨fun c hd => ?_, fun f hd => ?_⟩⟩
  · exact ⟨_, step_of_rejected hf h3 hd rfl, rfl⟩
  · exact ⟨_, step_of_rejected hf h3 hd rfl, rfl⟩

end Sys2Proof.Machine

/-! PROOFS. The pipeline against sequential execution (41_hazard_unit.md R195): the state sequential execution is in
when every instruction before the one in EM is done, the invariant that the latches follow its path, and the run that
ends there. -/

namespace Sys2Proof.Machine

/-! ### What a cycle hands on -/

/-- The result that the instruction in EM writes to its `rd` (R143, R242). -/
def nsResult (s : State) : Word := if s.em.dec.op = .lw then nsLoaded s else s.em.alu

theorem quietCycle_mwResult {s t : State} (h : QuietCycle s t) (hv : s.em.valid = true) :
    mwResult t.mw = nsResult s := by
  obtain ⟨s1, h1, hmw⟩ := quietCycle_mw h
  rw [hmw, mwResult_of_memory h1 (by simpa using hv)]
  simp [nsResult, nsLoaded]

/-- The registers once WB of the next cycle is done: EM's result is written over this cycle's. -/
theorem quietCycle_nsX1 {s t : State} (h : QuietCycle s t) :
    nsX1 t = if s.em.valid && writesReg s.em.dec.op then
      (nsX1 s).set s.em.dec.rd.toNat (nsResult s) s.em.dec.rd.isLt else nsX1 s := by
  obtain ⟨hvalid, hkeep⟩ := quietCycle_mw_dec h
  cases hv : s.em.valid with
  | false => simp [nsX1_of_invalid (hvalid.trans hv), quietCycle_regs h]
  | true => simp [nsX1, hvalid, hv, hkeep hv, quietCycle_regs h, quietCycle_mwResult h hv]

/-- The instruction in a latch, if it writes a register, does not write `x0`. -/
def NoX0Write (l : Latch) : Prop := l.valid = true → writesReg l.dec.op = true → l.dec.rd ≠ 0

/-- Where EM does not write `x0`, an operand of EX is the register as the instructions before it leave it (R190,
R194). -/
theorem nsOperand_eq_nsX1 {s t : State} (h : QuietCycle s t) (hx0 : NoX0Write s.em) (r : RegIx) :
    nsOperand s r = (nsX1 t)[r.toNat]'r.isLt := by
  rw [nsOperand_eq_ite]
  have hx1 := quietCycle_nsX1 h
  cases hw : s.em.valid && writesReg s.em.dec.op with
  | false =>
    have hno : mwForwards s.em r = false := by simp [mwForwards, hw]
    simp [hno, hx1, hw]
  | true =>
    rw [if_pos hw] at hx1
    obtain ⟨hv, hwr⟩ := Bool.and_eq_true_iff.mp hw
    rcases eq_or_ne s.em.dec.rd r with rfl | hrd
    · have hyes : mwForwards s.em s.em.dec.rd = true := by
        simpa [mwForwards, hw] using hx0 hv hwr
      simp [hyes, hx1, nsResult]
    · have hno : mwForwards s.em r = false := mwForwards_eq_false_of_ne fun _ => Ne.symm hrd
      have hne : s.em.dec.rd.toNat ≠ r.toNat := fun e => hrd (BitVec.eq_of_toNat_eq e)
      simp [hno, hx1, hne]

/-- What STALL_IF leaves: a stall keeps FD and the pc and puts the bubble in DE; otherwise DE holds what ID put there,
and FD holds the line at the fetch address, or nothing and the pc stays there. -/
theorem quietStep_fetch_cases {s t : State} (hs : s.fault = false) (h : step s = .next t) (ht : t.fault = false) :
    (takesBranch s = false ∧ s.fd.valid = true ∧ t.fd = s.fd ∧ t.pc = s.pc ∧ t.de.dec = Decoded.zero) ∨
    (t.de.deView = nsD1 s ∧ t.fd.valid = false ∧ t.pc = fetchAddr s) ∨
    (t.de.deView = nsD1 s ∧ t.fd.valid = true ∧ t.fd.raw = s.progAt (fetchAddr s) ∧ t.fd.pc = fetchAddr s ∧
      t.pc = nextLine (fetchAddr s)) := by
  obtain ⟨s3, s4, b, h3, h4, rfl⟩ := quietStep_cases hs h ht
  have hpc : s3.pc = fetchAddr s := beforeFetch_pc h3
  have hview : s3.de.deView = nsD1 s := beforeFetch_deView h3
  rcases stallOrFetch_cases h4 with ⟨d, -, hlu, rfl, -⟩ | ⟨-, rfl, -⟩ | ⟨d, -, -, rfl, -⟩
  · obtain ⟨hde, -⟩ := loadUse_some.mp hlu
    obtain ⟨hno, hfd, -⟩ := beforeFetch_of_de_valid h3 hde
    have hsame : s3.fd = s.fd := beforeFetch_fd_of_not_takesBranch h3 hno
    exact .inl ⟨hno, hfd, hsame, hpc.trans (fetchAddr_of_not_takesBranch hno), rfl⟩
  · exact .inr (.inl ⟨hview, rfl, hpc⟩)
  · exact .inr (.inr ⟨hview, rfl, rfl, hpc, congrArg nextLine hpc⟩)

/-! ### The path through the latches -/

/-- The address of the oldest instruction that is not yet past FD. -/
def fdAddr (s : State) : Word := if s.fd.valid then s.fd.pc else s.pc

/-- The address of the oldest instruction that is not yet past DE. -/
def deAddr (s : State) : Word := if s.de.valid then s.de.pc else fdAddr s

/-- The address of the oldest instruction that is not yet past EM. -/
def emAddr (s : State) : Word := if s.em.valid then s.em.pc else deAddr s

theorem fdAddr_of_valid {s : State} (h : s.fd.valid = true) : fdAddr s = s.fd.pc := by simp [fdAddr, h]
theorem fdAddr_of_invalid {s : State} (h : s.fd.valid = false) : fdAddr s = s.pc := by simp [fdAddr, h]
theorem deAddr_of_valid {s : State} (h : s.de.valid = true) : deAddr s = s.de.pc := by simp [deAddr, h]
theorem deAddr_of_invalid {s : State} (h : s.de.valid = false) : deAddr s = fdAddr s := by simp [deAddr, h]
theorem emAddr_of_valid {s : State} (h : s.em.valid = true) : emAddr s = s.em.pc := by simp [emAddr, h]
theorem emAddr_of_invalid {s : State} (h : s.em.valid = false) : emAddr s = deAddr s := by simp [emAddr, h]

section
variable {s t : State} (hs : s.fault = false) (h : step s = .next t) (ht : t.fault = false)
include hs h ht

/-- Without a stall the oldest instruction after DE is the one at the fetch address. -/
theorem quietStep_fdAddr (hno : s.fd.valid = false ∨ takesBranch s = true ∨ t.de.dec ≠ Decoded.zero) :
    fdAddr t = fetchAddr s := by
  rcases quietStep_fetch_cases hs h ht with ⟨hnt, hfd, -, -, hdec⟩ | ⟨-, hv, hpc⟩ | ⟨-, hv, -, hpc, -⟩
  · simp [hnt, hfd, hdec] at hno
  · exact (fdAddr_of_invalid hv).trans hpc
  · exact (fdAddr_of_valid hv).trans hpc

/-- What was not past FD is now not past DE: a stalled LW is in both, at one address. -/
theorem quietStep_deAddr (hnt : takesBranch s = false) : deAddr t = fdAddr s := by
  obtain ⟨hvalid, hline⟩ := fdView_eq_iff.mp (quietCycle_de_line ⟨.inl h, hs, ht⟩ hnt)
  cases hv : s.fd.valid with
  | true =>
    obtain ⟨-, hpc⟩ := hline (hvalid.trans hv)
    rw [deAddr_of_valid (hvalid.trans hv), hpc, fdAddr_of_valid hv]
  | false =>
    rw [deAddr_of_invalid (hvalid.trans hv), quietStep_fdAddr hs h ht (.inl hv), fdAddr_of_invalid hv,
      fetchAddr_of_not_takesBranch hnt]

theorem quietStep_emAddr (hnt : takesBranch s = false) : emAddr t = deAddr s := by
  obtain ⟨hvalid, hline⟩ := fdView_eq_iff.mp (quietCycle_em_line ⟨.inl h, hs, ht⟩ hnt)
  cases hv : s.de.valid with
  | true =>
    obtain ⟨-, hpc⟩ := hline (hvalid.trans hv)
    rw [emAddr_of_valid (hvalid.trans hv), hpc, deAddr_of_valid hv]
  | false => rw [emAddr_of_invalid (hvalid.trans hv), quietStep_deAddr hs h ht hnt, deAddr_of_invalid hv]

/-- A taken branch leaves nothing between MW and the fetch at its target (R264). -/
theorem quietStep_emAddr_of_takesBranch (htaken : takesBranch s = true) : emAddr t = fetchAddr s := by
  have hq : QuietCycle s t := ⟨.inl h, hs, ht⟩
  obtain ⟨-, hem⟩ := executeComputesIntoEM s t hq
  have hde : t.de.valid = false := by
    rcases quietStep_fetch_cases hs h ht with ⟨hnt, -⟩ | ⟨hview, -⟩ | ⟨hview, -⟩
    · simp [htaken] at hnt
    all_goals cases hv : t.de.valid <;> simp [Latch.deView, nsD1, nsTaken_eq, htaken, hv] at hview ⊢
  rw [emAddr_of_invalid (hem (.inr htaken)), deAddr_of_invalid hde, quietStep_fdAddr hs h ht (.inr (.inl htaken))]

end

/-! ### The sequential state behind a pipeline state -/

/-- Sequential execution when every instruction before the oldest one not yet past EM is done: WB of MW included, and
the store of EM still to come. -/
def State.committed (s : State) : SeqState := { regs := nsX1 s, mem := s.mem, pc := emAddr s }

@[simp] theorem committed_regs (s : State) : s.committed.regs = nsX1 s := rfl
@[simp] theorem committed_mem (s : State) : s.committed.mem = s.mem := rfl

theorem committed_pc_of_em_valid {s : State} (h : s.em.valid = true) : s.committed.pc = s.em.pc :=
  emAddr_of_valid h

theorem committed_reg (s : State) (r : RegIx) : s.committed.reg r = (nsX1 s)[r.toNat]'r.isLt := rfl

/-- The latches hold the instructions that sequential execution runs next, one line after the other, EM with its ALU
result. A bubble in DE, behind which the path is broken, is left out. -/
structure InOrder (s : State) : Prop where
  fd : s.fd.valid = true → s.fd.raw = s.progAt s.fd.pc ∧ s.pc = nextLine s.fd.pc
  de : s.de.valid = true → s.de.dec ≠ Decoded.zero →
    decodeRecord (s.progAt s.de.pc) = .ok s.de.dec ∧ fdAddr s = nextLine s.de.pc
  em : s.em.valid = true →
    decodeRecord (s.progAt s.em.pc) = .ok s.em.dec ∧ deAddr s = nextLine s.em.pc ∧
    s.em.alu = alu s.em.dec.op (s.committed.reg s.em.dec.rs1) (s.committed.reg s.em.dec.rs2) s.em.dec.imm

theorem inOrder_of_drained {s : State} (h : Drained s) : InOrder s := by
  obtain ⟨-, hfd, hde, hem, -⟩ := h
  exact ⟨by simp [hfd], by simp [hde], by simp [hem]⟩

theorem committed_of_drained {s : State} (h : Drained s) :
    s.committed = { regs := s.regs, mem := s.mem, pc := s.pc } := by
  obtain ⟨-, hfd, hde, hem, hmw⟩ := h
  rw [State.committed, nsX1_of_invalid hmw, emAddr_of_invalid hem, deAddr_of_invalid hde, fdAddr_of_invalid hfd]

theorem progAt_of_step {s t : State} (h : step s = .next t) (a : Word) : t.progAt a = s.progAt a := by
  rw [State.progAt, State.progAt, cycleTo_prog (.inl h)]

section
variable {s t : State} (hs : s.fault = false) (h : step s = .next t) (ht : t.fault = false)
include hs h ht

theorem InOrder.step_fd (hin : InOrder s) :
    t.fd.valid = true → t.fd.raw = t.progAt t.fd.pc ∧ t.pc = nextLine t.fd.pc := by
  rw [progAt_of_step h]
  rcases quietStep_fetch_cases hs h ht with ⟨-, hfd, hsame, hpc, -⟩ | ⟨-, hv, -⟩ | ⟨-, -, hraw, haddr, hpc⟩
  · rw [hsame, hpc]
    exact hin.fd
  · simp [hv]
  · rw [haddr]
    exact fun _ => ⟨hraw, hpc⟩

theorem InOrder.step_de (hin : InOrder s) (hv : t.de.valid = true) (hne : t.de.dec ≠ Decoded.zero) :
    decodeRecord (t.progAt t.de.pc) = .ok t.de.dec ∧ fdAddr t = nextLine t.de.pc := by
  have hview : t.de.deView = nsD1 s := by
    rcases quietStep_fetch_cases hs h ht with ⟨-, -, -, -, hdec⟩ | ⟨hview, -⟩ | ⟨hview, -⟩
    · exact absurd hdec hne
    · exact hview
    · exact hview
  rw [Latch.deView, if_pos hv] at hview
  obtain ⟨hnt, hfd, d, hd, heq⟩ := nsD1_eq_some_iff.mp hview.symm
  obtain ⟨-, rfl, haddr⟩ := DeView.mk.inj heq
  obtain ⟨hraw, hpc⟩ := hin.fd hfd
  rw [quietStep_fdAddr hs h ht (.inr (.inr hne)), fetchAddr_of_not_takesBranch hnt, haddr, progAt_of_step h, ← hraw]
  exact ⟨hd, hpc⟩

theorem InOrder.step_em (hin : InOrder s) (hx0 : NoX0Write s.em)
    (hbubble : takesBranch s = false → s.de.valid = true → s.de.dec ≠ Decoded.zero) (hv : t.em.valid = true) :
    decodeRecord (t.progAt t.em.pc) = .ok t.em.dec ∧ deAddr t = nextLine t.em.pc ∧
      t.em.alu = alu t.em.dec.op (t.committed.reg t.em.dec.rs1) (t.committed.reg t.em.dec.rs2) t.em.dec.imm := by
  have hq : QuietCycle s t := ⟨.inl h, hs, ht⟩
  have hview := quietCycle_emView hq
  cases hde : s.de.valid <;> cases hnt : takesBranch s <;>
    simp [Latch.emView, hv, nsEM, nsTaken_eq, hde, hnt] at hview
  obtain ⟨-, hdec, haddr, halu⟩ := hview
  obtain ⟨hline, hnext⟩ := hin.de hde (hbubble hnt hde)
  rw [halu, quietStep_deAddr hs h ht hnt, progAt_of_step h, haddr, hdec, nsOperand_eq_nsX1 hq hx0,
    nsOperand_eq_nsX1 hq hx0]
  exact ⟨hline, hnext, rfl⟩

/-- A cycle that raises nothing keeps the order, where no write to `x0` and no bubble moves on. -/
theorem InOrder.next (hin : InOrder s) (hx0 : NoX0Write s.em)
    (hbubble : takesBranch s = false → s.de.valid = true → s.de.dec ≠ Decoded.zero) : InOrder t :=
  ⟨InOrder.step_fd hs h ht hin, InOrder.step_de hs h ht hin, InOrder.step_em hs h ht hin hx0 hbubble⟩

end

/-! ### One instruction of sequential execution -/

/-- The address after the instruction in EM: the target of a taken branch, or the next line. -/
def nsNextAddr (s : State) : Word :=
  if takesBranch s then u32 (branchTarget s.em.pc s.em.dec.imm) else nextLine s.em.pc

theorem nsNextAddr_of_not_takesBranch {s : State} (h : takesBranch s = false) :
    nsNextAddr s = nextLine s.em.pc := by
  simp [nsNextAddr, h]

/-- The state after the instruction in EM, one part at a time: what MEM and the next WB make of it. -/
def State.afterEM (s : State) : SeqState :=
  { regs := if writesReg s.em.dec.op then (nsX1 s).set s.em.dec.rd.toNat (nsResult s) s.em.dec.rd.isLt else nsX1 s
    mem := nsMem s
    pc := nsNextAddr s }

/-- An instruction that writes `rd` and does nothing else. -/
theorem retire_committed {s : State} (hv : s.em.valid = true) (hw : writesReg s.em.dec.op = true) :
    s.committed.retire s.em.dec.rd (nsResult s) = s.afterEM := by
  have hnt : takesBranch s = false := by
    cases hop : s.em.dec.op <;> simp [takesBranch, branchTaken, hop, writesReg] at hw ⊢
  have hmem : nsMem s = s.mem := by cases hop : s.em.dec.op <;> simp [nsMem, hop, writesReg] at hw ⊢
  simp [SeqState.retire, SeqState.nextPc, State.afterEM, committed_pc_of_em_valid hv, hw, hmem,
    nsNextAddr_of_not_takesBranch hnt]

/-- An instruction that writes no register. -/
theorem afterEM_of_no_write {s : State} (hw : writesReg s.em.dec.op = false) :
    s.afterEM = { s.committed with mem := nsMem s, pc := nsNextAddr s } := by
  simp [State.afterEM, hw]

/-- A branch that MEM did not reject. -/
theorem branch_committed {s s3 : State} (h3 : beforeFetch s = .ok s3) (hv : s.em.valid = true)
    (hop : s.em.dec.op = .beq ∨ s.em.dec.op = .blt) :
    s.committed.branch (takesBranch s) s.em.dec.imm = some s.afterEM := by
  have hw : writesReg s.em.dec.op = false := by rcases hop with hop | hop <;> simp [hop, writesReg]
  have hmem : nsMem s = s.mem := by rcases hop with hop | hop <;> simp [nsMem, hop]
  have hpc := committed_pc_of_em_valid hv
  rw [afterEM_of_no_write hw, hmem]
  cases ht : takesBranch s with
  | false => simp [SeqState.branch, SeqState.nextPc, hpc, nsNextAddr, ht]
  | true => simp [SeqState.branch, hpc, nsNextAddr, ht, targetOk_of_beforeFetch h3 ht]

/-- Sequential execution of the instruction in EM, by opcode: its operands went into the ALU result (R220, R222, R224,
R241, R244, R260, R261). -/
theorem exec_committed {s s3 : State} (h3 : beforeFetch s = .ok s3) (hin : InOrder s) (hv : s.em.valid = true) :
    s.committed.exec s.em.dec = some s.afterEM := by
  obtain ⟨s1, h1, -⟩ := beforeFetch_cases h3
  obtain ⟨-, -, halu⟩ := hin.em hv
  have hv' : (writeback s).em.valid = true := by simpa using hv
  cases hop : s.em.dec.op <;> simp only [hop, alu] at halu
  case add =>
    rw [← retire_committed hv (by rw [hop]; rfl)]
    simp [SeqState.exec, hop, nsResult, halu, aluAdd]
  case addi =>
    rw [← retire_committed hv (by rw [hop]; rfl)]
    simp [SeqState.exec, hop, nsResult, halu, aluAddi]
  case lui =>
    rw [← retire_committed hv (by rw [hop]; rfl)]
    simp [SeqState.exec, hop, nsResult, halu, aluLui]
  case lw =>
    have hlt := memory_load_in_bounds h1 hv' (by simpa using hop)
    rw [← wordIndex_lt_iff, writeback_em, halu, aluLw, effectiveAddress] at hlt
    rw [← retire_committed hv (by rw [hop]; rfl)]
    simp [SeqState.exec, hop, hlt, nsResult, nsLoaded, halu, aluLw, effectiveAddress]
  case sw =>
    obtain ⟨hlt, -⟩ := memory_of_store h1 hv' (by simpa using hop)
    have hnt : takesBranch s = false := by simp [takesBranch, branchTaken, hop]
    rw [← wordIndex_lt_iff, writeback_em, halu, aluSw, effectiveAddress] at hlt
    rw [afterEM_of_no_write (by rw [hop]; rfl), nsNextAddr_of_not_takesBranch hnt]
    simp [SeqState.exec, SeqState.nextPc, hop, hlt, nsMem, hv, halu, aluSw, effectiveAddress,
      committed_pc_of_em_valid hv, ← committed_reg]
  case beq =>
    rw [aluBeq] at halu
    have ht : takesBranch s = beqTaken s.em.alu := by simp [takesBranch, branchTaken, hop, hv]
    rw [← branch_committed h3 hv (.inl hop), ht, halu]
    simp [SeqState.exec, hop]
  case blt =>
    rw [aluBlt] at halu
    have ht : takesBranch s = bltTaken s.em.alu := by simp [takesBranch, branchTaken, hop, hv]
    rw [← branch_committed h3 hv (.inr hop), ht, halu]
    simp [SeqState.exec, hop]

/-! ### A clean run -/

theorem runs_prog {n : Nat} {s t : State} (h : runs n s = .next t) : t.prog = s.prog := by
  induction n generalizing s with
  | zero =>
    cases h
    rfl
  | succ n ih =>
    obtain ⟨s', hs', hrest⟩ := runs_split (m := 1) (by rwa [Nat.add_comm])
    rw [runs_one] at hs'
    exact (ih hrest).trans (cycleTo_prog (.inl hs'))

/-- A run of `n` cycles that ends drained and without a fault, and in which no write to `x0` reaches WB. -/
structure CleanRun (n : Nat) (s last : State) : Prop where
  runs : runs n s = .next last
  drained : Drained last
  noX0Write : ∀ j u, j ≤ n → Machine.runs j s = .next u → NoX0Write u.mw

theorem CleanRun.fault {n : Nat} {s last : State} (h : CleanRun n s last) : s.fault = false := by
  obtain ⟨hf, -⟩ := h.drained
  obtain ⟨t, ht, hft⟩ := runs_quiet_of_le h.runs hf (Nat.zero_le n)
  cases ht
  exact hft

theorem CleanRun.step {n : Nat} {s last : State} (h : CleanRun (n + 1) s last) :
    ∃ t, Machine.step s = .next t ∧ CleanRun n t last := by
  obtain ⟨t, ht, hrest⟩ := runs_split (m := 1) (n := n) (by rw [Nat.add_comm]; exact h.runs)
  rw [runs_one] at ht
  exact ⟨t, ht, hrest, h.drained, fun j u hj hu => h.noX0Write (j + 1) u (by omega) ((runs_succ ht).trans hu)⟩

/-- What is in EM reaches WB, so it does not write `x0`. -/
theorem CleanRun.noX0Write_em {n : Nat} {s last : State} (h : CleanRun n s last) : NoX0Write s.em := by
  intro hv
  cases n with
  | zero =>
    obtain ⟨-, -, -, hem, -⟩ := h.drained
    cases h.runs
    simp [hem] at hv
  | succ n =>
    obtain ⟨t, hstep, hrest⟩ := h.step
    obtain ⟨hvalid, hkeep⟩ := quietCycle_mw_dec ⟨.inl hstep, h.fault, hrest.fault⟩
    rw [← hkeep hv]
    exact hrest.noX0Write 0 t (Nat.zero_le n) (runs_zero t) (hvalid.trans hv)

/-- What is in DE reaches EM unless a branch flushes it, so only a flushed DE can hold the bubble, a write to `x0`. -/
theorem CleanRun.no_bubble {n : Nat} {s last : State} (h : CleanRun n s last) (hnt : takesBranch s = false)
    (hv : s.de.valid = true) : s.de.dec ≠ Decoded.zero := by
  intro hdec
  cases n with
  | zero =>
    obtain ⟨-, -, hde, -⟩ := h.drained
    cases h.runs
    simp [hde] at hv
  | succ n =>
    obtain ⟨t, hstep, hrest⟩ := h.step
    obtain ⟨htv, htdec⟩ := HoldsBubble.to_em ⟨hv, hdec⟩ ⟨.inl hstep, h.fault, hrest.fault⟩ hnt
    have hx0 := hrest.noX0Write_em htv
    rw [htdec] at hx0
    exact hx0 rfl rfl

/-! ### The simulation -/

/-- A cycle with no instruction in EM leaves sequential execution where it is. -/
theorem committed_of_em_invalid {s t : State} (hs : s.fault = false) (h : step s = .next t) (ht : t.fault = false)
    (hv : s.em.valid = false) : t.committed = s.committed := by
  have hq : QuietCycle s t := ⟨.inl h, hs, ht⟩
  have hnt : takesBranch s = false := by simp [takesBranch, hv]
  have hmem : nsMem s = s.mem := by simp [nsMem, hv]
  rw [State.committed, State.committed, quietCycle_nsX1 hq, quietCycle_nsMem hq, hmem,
    quietStep_emAddr hs h ht hnt, emAddr_of_invalid hv]
  simp [hv]

/-- A cycle with an instruction in EM is one step of sequential execution. -/
theorem step_committed {s t : State} (hs : s.fault = false) (h : step s = .next t) (ht : t.fault = false)
    (hin : InOrder s) (hv : s.em.valid = true) : s.committed.step s.prog = some t.committed := by
  have hq : QuietCycle s t := ⟨.inl h, hs, ht⟩
  obtain ⟨s3, -, -, h3, -⟩ := quietStep_cases hs h ht
  obtain ⟨hline, hnext, -⟩ := hin.em hv
  have haddr : emAddr t = nsNextAddr s := by
    cases hb : takesBranch s with
    | false => rw [nsNextAddr_of_not_takesBranch hb, quietStep_emAddr hs h ht hb, hnext]
    | true =>
      rw [quietStep_emAddr_of_takesBranch hs h ht hb, fetchAddr_of_beforeFetch h3]
      simp [nsNextAddr, hb]
  have hafter : t.committed = s.afterEM := by
    rw [State.committed, State.afterEM, quietCycle_nsX1 hq, quietCycle_nsMem hq, haddr]
    simp [hv]
  have hat : s.committed.line s.prog = s.progAt s.em.pc := by
    rw [SeqState.line, committed_pc_of_em_valid hv, State.progAt]
  rw [SeqState.step, hat, hline, hafter]
  exact exec_committed h3 hin hv

/-- From any point of a clean run, sequential execution of what is not yet past EM reaches the state the run ends in. -/
theorem CleanRun.sequential {n : Nat} {s last : State} (h : CleanRun n s last) (hin : InOrder s) :
    ∃ m, SeqState.run s.prog m s.committed = some last.committed := by
  induction n generalizing s with
  | zero =>
    cases h.runs
    exact ⟨0, rfl⟩
  | succ n ih =>
    obtain ⟨t, hstep, hrest⟩ := h.step
    have hin' := InOrder.next h.fault hstep hrest.fault hin h.noX0Write_em h.no_bubble
    obtain ⟨m, hm⟩ := ih hrest hin'
    rw [cycleTo_prog (.inl hstep)] at hm
    cases hv : s.em.valid with
    | false => exact ⟨m, by rw [← committed_of_em_invalid h.fault hstep hrest.fault hv, hm]⟩
    | true => exact ⟨m + 1, by simp only [SeqState.run, step_committed h.fault hstep hrest.fault hin hv, hm]⟩

/-- Settles O50: a drained block is in order, and sequential execution of it has nothing left to do at the end. -/
theorem pipelineMatchesSequential : Obligations.PipelineMatchesSequential := by
  intro s t n hdr hruns hf hact hx0
  obtain ⟨u, hu, hfu⟩ := runs_quiet_of_le hruns hf (Nat.le_succ n)
  have hterm := terminated_of_inactive hfu (step_of_runs hu hruns) hf hact
  have hclean : CleanRun (n + 1) s t := by
    refine ⟨hruns, hterm.drained, fun j v hj hv => ?_⟩
    rcases Nat.le_succ_iff.mp hj with hle | rfl
    · exact hx0 j v hle hv
    · cases hruns.symm.trans hv
      obtain ⟨-, -, -, -, hmw⟩ := hterm.drained
      simp [NoX0Write, hmw]
  obtain ⟨m, hm⟩ := hclean.sequential (inOrder_of_drained hdr)
  rw [committed_of_drained hdr, committed_of_drained hterm.drained] at hm
  refine ⟨m, _, hm, ?_, rfl, rfl⟩
  have hsent := hterm.sentinel
  rwa [SentinelAt, State.progAt, runs_prog hruns] at hsent

end Sys2Proof.Machine

/-! PROOFS. LUI and the ADDI behind it (42_integer.md R225; 41_hazard_unit.md R194): runs known but for don't-care
fields, and the six cycles of the program from reset. -/

namespace Sys2Proof.Machine

/-! ### A run that is known but for don't-care fields (R42) -/

/-- `n` cycles of `s` end in a state that differs from `s'` in don't-care fields at most. -/
def RunsLike (n : Nat) (s s' : State) : Prop := ∃ t, runs n s = .next t ∧ SameButDontCare t s'

/-- The second run is taken from the state that the first is only known to be like (O51). -/
theorem RunsLike.trans {m n : Nat} {s s' s'' : State} (h : RunsLike m s s') (h' : RunsLike n s' s'') :
    RunsLike (m + n) s s'' := by
  obtain ⟨t, ht, hview, hfault, hinfo, hcycle, hprog⟩ := h
  obtain ⟨u, hu, hview'', hfault'', hinfo'', hcycle'', hprog''⟩ := h'
  have hsame : SameButDontCare s' t := ⟨hview.symm, hfault.symm, hinfo.symm, hcycle.symm, hprog.symm⟩
  obtain ⟨hruns, -⟩ := invalidLatchFieldsUnobservable s' t n hsame
  obtain ⟨v, hv, hview', hfault', hinfo', hcycle', hprog'⟩ := hruns u hu
  exact ⟨v, (runs_append ht n).trans hv, hview'.symm.trans hview'', hfault'.symm.trans hfault'',
    hinfo'.symm.trans hinfo'', hcycle'.symm.trans hcycle'', hprog'.symm.trans hprog''⟩

theorem quietCycle_faultInfo {s t : State} (h : QuietCycle s t) : t.faultInfo = s.faultInfo := by
  obtain ⟨hcyc, hs, ht⟩ := h
  obtain ⟨port, hadv⟩ := advance_of_cycleTo hcyc
  obtain ⟨s4, b, hsub, rfl⟩ := advance_quiet hadv hs ht
  exact (endCycle_faultInfo s4 b).trans (subSteps_faultInfo hsub)

/-- What a quiet cycle does to the fields that no view shows. -/
structure CountsOn (s s' : State) : Prop where
  before : s.fault = false
  after : s'.fault = false
  faultInfo : s'.faultInfo = s.faultInfo
  cycle : s'.cycle = s.cycle + 1
  prog : s'.prog = s.prog

theorem RunsLike.of_step {s t s' : State} (h : step s = .next t) (ht : t.fault = false) (hon : CountsOn s s')
    (hview : t.view = s'.view) : RunsLike 1 s s' := by
  obtain ⟨hs, hfault, hinfo, hcycle, hprog⟩ := hon
  have hq : QuietCycle s t := ⟨.inl h, hs, ht⟩
  exact ⟨t, (runs_one s).trans h, hview, ht.trans hfault.symm, (quietCycle_faultInfo hq).trans hinfo.symm,
    (quietCycle_cycle hq).trans hcycle.symm, (cycleTo_prog hq.1).trans hprog.symm⟩

/-- A cycle with nothing in EM that could fault or branch, and an instruction at the pc, goes by R164. -/
theorem RunsLike.cycle {s s' : State} {port : Raw} {d : Decoded} (hon : CountsOn s s') (hem : Harmless s.em)
    (hfd : s.fd.valid = true → decodes s.fd.raw = true) (hport : s.progAt s.pc = port) (hd : decodeRecord port = .ok d)
    (hview : nsView s port (some d) = s'.view) : RunsLike 1 s s' := by
  subst hport
  obtain ⟨s1, h1⟩ := memory_ok_of_harmless hem
  obtain ⟨s3, h3⟩ := beforeFetch_of_memory_ok h1 hfd
  obtain ⟨t, hadv, ht, htview⟩ := advance_of_decodes hon.before h3 hd
  rw [← fetchRaw_of_not_takesBranch (takesBranch_of_harmless hem), ← step_eq_advance] at hadv
  exact .of_step hadv ht hon (htview.trans hview)

/-- As `RunsLike.cycle`, with the sentinel at the pc. -/
theorem RunsLike.cycle_at_sentinel {s s' : State} (hon : CountsOn s s') (hem : Harmless s.em)
    (hfd : s.fd.valid = true → decodes s.fd.raw = true) (hport : s.progAt s.pc = Raw.sentinel)
    (hview : nsView s Raw.sentinel none = s'.view) : RunsLike 1 s s' := by
  obtain ⟨s1, h1⟩ := memory_ok_of_harmless hem
  obtain ⟨s3, h3⟩ := beforeFetch_of_memory_ok h1 hfd
  have hadv := advance_sentinel hon.before h3 (decodeRecord_sentinel (r := Raw.sentinel) rfl)
  rw [← hport, ← fetchRaw_of_not_takesBranch (takesBranch_of_harmless hem), ← step_eq_advance] at hadv
  exact .of_step hadv ((beforeFetch_fault h3).trans hon.before) hon ((view_of_sentinel h3 _).trans hview)

/-- A run like one that ends drained ends drained. -/
theorem drained_of_sameButDontCare {s s' : State} (h : SameButDontCare s s') (hdr : Drained s') : Drained s := by
  have halike := sameButDontCare_iff_alike.mp h
  obtain ⟨hf, hfd, hde, hem, hmw⟩ := hdr
  exact ⟨halike.fault.trans hf, halike.fd_valid.trans hfd, halike.de_valid.trans hde, halike.em_valid.trans hem,
    halike.mw_valid.trans hmw⟩

/-! ### An instruction in a latch -/

/-- A latch that holds `i` from address `a`, its ALU result `v`. -/
def latchOf (i : Instr) (a v : Word) : Latch :=
  { Latch.empty with valid := true, raw := encode i, dec := i.record, pc := a, alu := v }

theorem decodes_encode {i : Instr} (h : WellFormed i = true) : decodes (encode i) = true := by
  simp [decodes, decodeRecord_of_decode (decode_encode h)]

/-- ID decodes what a well-formed instruction in FD was encoded from. -/
theorem nsD1_of_latchOf {s : State} {i : Instr} {a v : Word} (hwf : WellFormed i = true) (hfd : s.fd = latchOf i a v)
    (hnt : takesBranch s = false) : nsD1 s = some { raw := encode i, dec := i.record, pc := a } := by
  simp [nsD1, nsTaken_eq, hnt, hfd, latchOf, decodeRecord_of_decode (decode_encode hwf)]

theorem harmless_empty : Harmless Latch.empty := nofun

theorem harmless_latchOf {i : Instr} (h : i.record.op = .add ∨ i.record.op = .addi ∨ i.record.op = .lui) (a v : Word) :
    Harmless (latchOf i a v) := fun _ => h

/-! ### LUI then ADDI (R225) -/

namespace LuiAddi

section
variable (rd hi lo : Field)

/-- The ALU result of the ADDI: LUI's result is forwarded to it, except to `x0`, which still reads as 0 (R194). -/
def sum : Word := (if regIx rd = 0 then 0 else aluLui hi) + lo

/-- The registers once the LUI is written back. -/
def regsAfterLui : Vector Word 32 := State.reset.regs.set (regIx rd).toNat (aluLui hi) (regIx rd).isLt

/-- The block with the program, after `c` cycles. -/
def block (c : Nat) (pc : Word) (fd de em mw : Latch) (regs : Vector Word 32) : State :=
  { State.reset with
    prog := [encode (.lui rd hi 0), encode (.addi rd rd lo)]
    cycle := c, pc := pc, fd := fd, de := de, em := em, mw := mw, regs := regs }

theorem block_line0 {c : Nat} {fd de em mw : Latch} {regs : Vector Word 32} :
    (block rd hi lo c 0 fd de em mw regs).progAt 0 = encode (.lui rd hi 0) := rfl

theorem block_line1 {c : Nat} {fd de em mw : Latch} {regs : Vector Word 32} :
    (block rd hi lo c 4 fd de em mw regs).progAt 4 = encode (.addi rd rd lo) := rfl

theorem block_end {c : Nat} {fd de em mw : Latch} {regs : Vector Word 32} :
    (block rd hi lo c 8 fd de em mw regs).progAt 8 = Raw.sentinel := rfl

def start : State := block rd hi lo 0 0 .empty .empty .empty .empty State.reset.regs

def luiInFD : State := block rd hi lo 1 4 (latchOf (.lui rd hi 0) 0 0) .empty .empty .empty State.reset.regs

def luiInDE : State :=
  block rd hi lo 2 8 (latchOf (.addi rd rd lo) 4 0) (latchOf (.lui rd hi 0) 0 0) .empty .empty State.reset.regs

def luiInEM : State :=
  block rd hi lo 3 8 .empty (latchOf (.addi rd rd lo) 4 0) (latchOf (.lui rd hi 0) 0 (aluLui hi)) .empty
    State.reset.regs

def luiInMW : State :=
  block rd hi lo 4 8 .empty .empty (latchOf (.addi rd rd lo) 4 (sum rd hi lo)) (latchOf (.lui rd hi 0) 0 (aluLui hi))
    State.reset.regs

def addiInMW : State :=
  block rd hi lo 5 8 .empty .empty .empty (latchOf (.addi rd rd lo) 4 (sum rd hi lo)) (regsAfterLui rd hi)

def finish : State :=
  { block rd hi lo 6 8 .empty .empty .empty .empty
      ((regsAfterLui rd hi).set (regIx rd).toNat (sum rd hi lo) (regIx rd).isLt) with stillActive := false }

variable {rd hi lo} (hrd : regFieldOk rd = true)
include hrd

theorem wellFormed_lui : WellFormed (.lui rd hi 0) = true := by simp [WellFormed, Instr.regFields, hrd]

theorem wellFormed_addi : WellFormed (.addi rd rd lo) = true := by simp [WellFormed, Instr.regFields, hrd]

theorem decodeRecord_lui : decodeRecord (encode (.lui rd hi 0)) = .ok (Instr.lui rd hi 0).record :=
  decodeRecord_of_decode (decode_encode (wellFormed_lui hrd))

theorem decodeRecord_addi : decodeRecord (encode (.addi rd rd lo)) = .ok (Instr.addi rd rd lo).record :=
  decodeRecord_of_decode (decode_encode (wellFormed_addi hrd))

theorem fetch_lui : RunsLike 1 (start rd hi lo) (luiInFD rd hi lo) :=
  .cycle ⟨rfl, rfl, rfl, rfl, rfl⟩ harmless_empty nofun (block_line0 rd hi lo) (decodeRecord_lui hrd) rfl

theorem fetch_addi : RunsLike 1 (luiInFD rd hi lo) (luiInDE rd hi lo) := by
  have hde : nsD1 (luiInFD rd hi lo) = (luiInDE rd hi lo).de.deView := nsD1_of_latchOf (wellFormed_lui hrd) rfl rfl
  refine .cycle ⟨rfl, rfl, rfl, rfl, rfl⟩ harmless_empty (fun _ => decodes_encode (wellFormed_lui hrd))
    (block_line1 rd hi lo) (decodeRecord_addi hrd) ?_
  simp only [nsView, nsStall, hde]
  rfl

theorem lui_to_em : RunsLike 1 (luiInDE rd hi lo) (luiInEM rd hi lo) := by
  have hde : nsD1 (luiInDE rd hi lo) = (luiInEM rd hi lo).de.deView := nsD1_of_latchOf (wellFormed_addi hrd) rfl rfl
  refine .cycle_at_sentinel ⟨rfl, rfl, rfl, rfl, rfl⟩ harmless_empty (fun _ => decodes_encode (wellFormed_addi hrd))
    (block_end rd hi lo) ?_
  simp only [nsView, nsStall, hde]
  rfl

omit hrd in
/-- The ADDI reads `rd` in EX while the LUI is in EM: this is where the value is forwarded, or not. -/
theorem nsOperand_luiInEM : nsOperand (luiInEM rd hi lo) (regIx rd) = if regIx rd = 0 then 0 else aluLui hi := by
  have hread : (nsX1 (luiInEM rd hi lo))[(regIx rd).toNat]'(regIx rd).isLt = 0 := readReg_reset (regIx rd)
  rw [nsOperand, hread]
  by_cases h0 : regIx rd = 0#5 <;> simp [luiInEM, block, latchOf, Instr.record, writesReg, h0]

omit hrd in
theorem addi_to_em : RunsLike 1 (luiInEM rd hi lo) (luiInMW rd hi lo) := by
  have hem : nsEM (luiInEM rd hi lo) = (luiInMW rd hi lo).em.emView := by
    have hval : aluAddi (nsOperand (luiInEM rd hi lo) (regIx rd)) lo = sum rd hi lo := by
      rw [nsOperand_luiInEM]
      rfl
    rw [luiInMW, ← hval]
    rfl
  refine .cycle_at_sentinel ⟨rfl, rfl, rfl, rfl, rfl⟩ (harmless_latchOf (.inr (.inr rfl)) _ _) nofun
    (block_end rd hi lo) ?_
  simp only [nsView, hem]
  rfl

omit hrd in
theorem addi_to_mw : RunsLike 1 (luiInMW rd hi lo) (addiInMW rd hi lo) :=
  .cycle_at_sentinel ⟨rfl, rfl, rfl, rfl, rfl⟩ (harmless_latchOf (.inr (.inl rfl)) _ _) nofun
    (block_end rd hi lo) rfl

omit hrd in
theorem addi_to_wb : RunsLike 1 (addiInMW rd hi lo) (finish rd hi lo) :=
  .cycle_at_sentinel ⟨rfl, rfl, rfl, rfl, rfl⟩ harmless_empty nofun (block_end rd hi lo) rfl

theorem runs_to_finish : RunsLike 6 (start rd hi lo) (finish rd hi lo) :=
  (fetch_lui hrd).trans <| (fetch_addi hrd).trans <| (lui_to_em hrd).trans <| addi_to_em.trans <|
    addi_to_mw.trans addi_to_wb

omit hrd in
/-- The register after both: the ADDI's result over the LUI's. -/
theorem finish_regs : (finish rd hi lo).regs = State.reset.regs.set (regIx rd).toNat
    (if regIx rd = 0 then lo else u32 (hi.toInt * 2 ^ 12 + lo.toInt)) (regIx rd).isLt := by
  have hsum : sum rd hi lo = if regIx rd = 0 then lo else u32 (hi.toInt * 2 ^ 12 + lo.toInt) := by
    by_cases h0 : regIx rd = 0
    · simp [sum, h0]
    · rw [sum, if_neg h0, if_neg h0, aluLui_eq_u32, u32, u32, BitVec.ofInt_add, BitVec.ofInt_toInt]
  rw [← hsum]
  simp [finish, block, regsAfterLui, Vector.set_set]

end

end LuiAddi

/-- Settles O44: the six cycles end like `LuiAddi.finish`, and the don't-care fields reach nothing that is stated. -/
theorem luiThenAddi : Obligations.LuiThenAddi := by
  intro rd hi lo hrd
  obtain ⟨u, hruns, hsame⟩ := LuiAddi.runs_to_finish (hi := hi) (lo := lo) hrd
  have halike := sameButDontCare_iff_alike.mp hsame
  exact ⟨u, hruns, drained_of_sameButDontCare hsame ⟨rfl, rfl, rfl, rfl, rfl⟩, halike.stillActive, halike.mem,
    halike.regs.trans LuiAddi.finish_regs⟩

end Sys2Proof.Machine

/-! PROOFS. ADD and ADDI from their fetch to their retirement (42_integer.md R220, R222, R227): instructions whose result
is their ALU result, the operands read from the registers because a drained block has nothing to forward. -/

namespace Sys2Proof.Machine

/-- Settles O37: ADD writes its ALU result, which is the sum, to `rd` in WB. -/
theorem addCompletes : Obligations.AddCompletes := by
  intro rd rs1 rs2 s hdr hwf hs
  have hwrites : forwardsFromEM (Instr.add rd rs1 rs2).record.op = true := rfl
  exact fetched_aluResult_completes hdr hwf hs hwrites

/-- Settles O38: as O37, with the ALU result as the exact sum of `x[rs1]` and the signed immediate modulo 2^32. -/
theorem addiCompletes : Obligations.AddiCompletes := by
  intro rd rs1 imm s hdr hwf hs
  have hwrites : forwardsFromEM (Instr.addi rd rs1 imm).record.op = true := rfl
  have hsum : aluAddi (s.readReg (regIx rs1)) imm = u32 ((s.readReg (regIx rs1)).toNat + imm.toInt) :=
    alu_eq_u32 .addi _ 0 imm
  obtain ⟨t, u, hexec, hruns, hudr, hactive, hregs, hrest⟩ := fetched_aluResult_completes hdr hwf hs hwrites
  refine ⟨t, u, hexec, hruns, hudr, hactive, ?_, hrest⟩
  rw [← hsum]
  exact hregs

end Sys2Proof.Machine

/-! PROOFS. BEQ and BLT (44_branch.md R260 to R266): the two conditions, the cycle in which a branch is taken, and a
branch from its fetch into a drained block to its retirement, its redirect or its BranchTargetError. -/

namespace Sys2Proof.Machine

/-! ### The conditions (R262) -/

theorem beqTaken_sub_iff (A B : Word) : beqTaken (A - B) = true ↔ A = B := by
  rw [beqTaken, decide_eq_true_iff, sub_eq_zero]

theorem bltTaken_iff_toInt_neg (d : Word) : bltTaken d = true ↔ d.toInt < 0 := by
  have hmsb : bltTaken d = d.msb := (BitVec.msb_eq_getLsbD_last d).symm
  rw [hmsb, BitVec.msb_eq_toInt, decide_eq_true_iff]

/-- The wrapped difference is negative where the exact one is and does not overflow, or where it overflows upwards. -/
theorem toInt_sub_neg_iff (A B : Word) :
    (A - B).toInt < 0 ↔
      (-(2 ^ 31) ≤ A.toInt - B.toInt ∧ A.toInt - B.toInt < 0) ∨ 2 ^ 31 ≤ A.toInt - B.toInt := by
  have hA := A.le_toInt
  have hA' := A.toInt_lt
  have hB := B.le_toInt
  have hB' := B.toInt_lt
  rw [BitVec.toInt_sub, Int.bmod_def]
  omega

/-- Settles O22: an overflow of the difference either way turns its sign around. -/
theorem branchConditions : Obligations.BranchConditions := by
  intro A B
  refine ⟨beqTaken_sub_iff A B, bltTaken_iff_toInt_neg (A - B), ?_⟩
  rw [bltTaken_iff_toInt_neg, toInt_sub_neg_iff]
  omega

/-! ### The cycle that takes a branch (R263 to R266) -/

theorem targetOk_eq_false_iff {t : Int} : targetOk t = false ↔ t < 0 ∨ 2 ^ 32 ≤ t ∨ t % 4 ≠ 0 := by
  rw [← Bool.not_eq_true, targetOk_iff]
  omega

theorem op_of_takesBranch {s : State} (h : takesBranch s = true) : s.em.dec.op = .beq ∨ s.em.dec.op = .blt := by
  cases hop : s.em.dec.op <;> simp [takesBranch, branchTaken, hop] at h ⊢

theorem writesReg_of_branch {op : Op} (h : op = .beq ∨ op = .blt) : writesReg op = false := by
  rcases h with rfl | rfl <;> rfl

theorem nsMem_of_takesBranch {s : State} (h : takesBranch s = true) : nsMem s = s.mem := by
  rcases op_of_takesBranch h with hop | hop <;> simp [nsMem, hop]

/-- The flush leaves ID nothing to decode, so only a bad target keeps the cycle from STALL_IF. -/
theorem beforeFetch_of_takesBranch {s : State} (ht : takesBranch s = true)
    (hok : targetOk (branchTarget s.em.pc s.em.dec.imm) = true) : ∃ s3, beforeFetch s = .ok s3 := by
  have h1 := memory_taken (s := writeback s) (by simpa using ht) (by simpa using hok)
  rw [beforeFetch_eq h1]
  exact ⟨_, decodeStage_invalid (by simp)⟩

theorem fetchRaw_of_takesBranch {s : State} (ht : takesBranch s = true)
    (hok : targetOk (branchTarget s.em.pc s.em.dec.imm) = true) :
    fetchRaw s = s.progAt (u32 (branchTarget s.em.pc s.em.dec.imm)) := by
  rw [fetchRaw, fetchAddr_of_takesBranch ht hok]

theorem step_badTarget {s : State} (hf : s.fault = false) (ht : takesBranch s = true)
    (hbad : targetOk (branchTarget s.em.pc s.em.dec.imm) = false) :
    step s = .next (s.takeFault (targetError s.em.pc (branchTarget s.em.pc s.em.dec.imm))) := by
  have h1 := memory_badTarget (s := writeback s) (by simpa using ht) (by simpa using hbad)
  exact (step_eq_advance s).trans (advance_raise_memory hf (by simpa using h1))

/-- What a cycle that takes a branch leaves, but for FD and the pc: the branch in MW, the two younger instructions
squashed, and no more done than the WB of the instruction that stood in MW (R264, R266). -/
structure BranchFlush (s t : State) : Prop where
  fault : t.fault = false
  faultInfo : t.faultInfo = s.faultInfo
  cycle : t.cycle = s.cycle + 1
  prog : t.prog = s.prog
  regs : t.regs = nsX1 s
  mem : t.mem = s.mem
  stillActive : t.stillActive = true
  de_valid : t.de.valid = false
  em_valid : t.em.valid = false
  mw_valid : t.mw.valid = true
  mw_raw : t.mw.raw = s.em.raw
  mw_dec : t.mw.dec = s.em.dec
  mw_pc : t.mw.pc = s.em.pc

theorem de_invalid_of_deView_none {l : Latch} (h : l.deView = none) : l.valid = false := by
  simpa using congrArg Option.isNone h

theorem nsD1_of_takesBranch {s : State} (h : takesBranch s = true) : nsD1 s = none := by
  simp [nsD1, nsTaken_eq, h]

section
variable {s t : State} (hs : s.fault = false) (h : step s = .next t) (hft : t.fault = false)
  (ht : takesBranch s = true)
include hs h hft ht

/-- A cycle that takes a branch does not stall: it fetches what stands at the fetch address, the sentinel or not. -/
theorem quietStep_fetch_of_takesBranch :
    t.de.valid = false ∧
      ((t.fd.valid = false ∧ t.pc = fetchAddr s) ∨
        (t.fd.valid = true ∧ t.fd.raw = s.progAt (fetchAddr s) ∧ t.fd.pc = fetchAddr s ∧ t.pc = fetchAddr s + 4)) := by
  rcases quietStep_fetch_cases hs h hft with ⟨hnt, -⟩ | ⟨hde, hfd, hpc⟩ | ⟨hde, hfd, hraw, haddr, hpc⟩
  · simp [ht] at hnt
  · exact ⟨de_invalid_of_deView_none (hde.trans (nsD1_of_takesBranch ht)), .inl ⟨hfd, hpc⟩⟩
  · exact ⟨de_invalid_of_deView_none (hde.trans (nsD1_of_takesBranch ht)),
      .inr ⟨hfd, hraw, haddr, hpc.trans (nextLine_eq _)⟩⟩

theorem branchFlush_of_takesBranch : BranchFlush s t := by
  have hq : QuietCycle s t := ⟨.inl h, hs, hft⟩
  obtain ⟨hde, -⟩ := quietStep_fetch_of_takesBranch hs h hft ht
  obtain ⟨-, hem⟩ := executeComputesIntoEM s t hq
  obtain ⟨-, hmw⟩ := memoryStageFillsMW s t hq
  obtain ⟨hvalid, hraw, hdec, haddr, -⟩ := hmw (em_valid_of_takesBranch ht)
  exact {
    fault := hft
    faultInfo := quietCycle_faultInfo hq
    cycle := quietCycle_cycle hq
    prog := cycleTo_prog hq.1
    regs := quietCycle_regs hq
    mem := (quietCycle_nsMem hq).trans (nsMem_of_takesBranch ht)
    stillActive := by simp [quietCycle_stillActive hq, anyValid, hvalid]
    de_valid := hde
    em_valid := hem (.inr ht)
    mw_valid := hvalid
    mw_raw := hraw
    mw_dec := hdec
    mw_pc := haddr }

end

section
variable {s : State} (hf : s.fault = false) (ht : takesBranch s = true)
  (hok : targetOk (branchTarget s.em.pc s.em.dec.imm) = true)
include hf ht hok

/-- A taken branch to a line that decodes fetches it (R266). -/
theorem step_branch_to_line {d : Decoded}
    (hd : decodeRecord (s.progAt (u32 (branchTarget s.em.pc s.em.dec.imm))) = .ok d) :
    ∃ t, step s = .next t ∧ BranchFlush s t ∧ t.fd.valid = true ∧
      t.fd.raw = s.progAt (u32 (branchTarget s.em.pc s.em.dec.imm)) ∧
      t.fd.pc = u32 (branchTarget s.em.pc s.em.dec.imm) ∧ t.pc = u32 (branchTarget s.em.pc s.em.dec.imm) + 4 := by
  rw [← fetchRaw_of_takesBranch ht hok] at hd
  obtain ⟨s3, h3⟩ := beforeFetch_of_takesBranch ht hok
  obtain ⟨t, hadv, hft, -⟩ := advance_of_decodes hf h3 hd
  have hstep : step s = .next t := (step_eq_advance s).trans hadv
  obtain ⟨-, hfetch⟩ := quietStep_fetch_of_takesBranch hf hstep hft ht
  rw [fetchAddr_of_takesBranch ht hok] at hfetch
  rcases hfetch with ⟨hfd, -⟩ | hfetch
  · exact absurd ((quietStep_fd_invalid_iff hf hstep hft).mp hfd) (tok_ne_nop_of_decodes hd)
  · exact ⟨t, hstep, branchFlush_of_takesBranch hf hstep hft ht, hfetch⟩

/-- A taken branch to the sentinel leaves FD empty and the pc at the target (R153, R266). -/
theorem step_branch_to_sentinel
    (hd : decodeRecord (s.progAt (u32 (branchTarget s.em.pc s.em.dec.imm))) = .error .sentinel) :
    ∃ t, step s = .next t ∧ BranchFlush s t ∧ t.fd.valid = false ∧
      t.pc = u32 (branchTarget s.em.pc s.em.dec.imm) := by
  rw [← fetchRaw_of_takesBranch ht hok] at hd
  obtain ⟨s3, h3⟩ := beforeFetch_of_takesBranch ht hok
  have hstep := (step_eq_advance s).trans (advance_sentinel hf h3 hd)
  have hft : (s3.clearFD.endCycle true).fault = false := (beforeFetch_fault h3).trans hf
  refine ⟨_, hstep, branchFlush_of_takesBranch hf hstep hft ht, rfl, ?_⟩
  exact (beforeFetch_pc h3).trans (fetchAddr_of_takesBranch ht hok)

/-- A taken branch to a line the decoder rejects records that, with the target as the address (R280). -/
theorem step_branch_to_rejected {e : Reject} {r : Raise}
    (hd : decodeRecord (s.progAt (u32 (branchTarget s.em.pc s.em.dec.imm))) = .error e)
    (hr : decodeAbort (u32 (branchTarget s.em.pc s.em.dec.imm)) e = .raise r) : step s = .next (s.takeFault r) := by
  rw [← fetchRaw_of_takesBranch ht hok] at hd
  rw [← fetchAddr_of_takesBranch ht hok] at hr
  obtain ⟨s3, h3⟩ := beforeFetch_of_takesBranch ht hok
  exact step_of_rejected hf h3 hd hr

end

/-- Settles O23: one case per answer of the decoder on the target line. -/
theorem takenBranchFlushes : Obligations.TakenBranchFlushes := by
  intro s hf ht target h0 hlt h4
  have hok : targetOk (branchTarget s.em.pc s.em.dec.imm) = true := (targetOk_iff _).mpr ⟨h0, hlt, h4⟩
  cases hd : decodeRecord (s.progAt (u32 target)) with
  | ok d =>
    obtain ⟨t, hstep, hflush, hfd, hraw, haddr, hpc⟩ := step_branch_to_line hf ht hok hd
    exact ⟨t, hstep, hflush.fault, hfd, hraw, haddr, hpc, hflush.de_valid, hflush.em_valid, hflush.mw_valid,
      hflush.mw_dec, hflush.mw_pc, hflush.mem⟩
  | error e =>
    cases e with
    | sentinel =>
      obtain ⟨t, hstep, hflush, hfd, hpc⟩ := step_branch_to_sentinel hf ht hok hd
      exact ⟨t, hstep, hflush.fault, hfd, hpc, hflush.de_valid, hflush.em_valid, hflush.mw_valid, hflush.mw_dec,
        hflush.mw_pc, hflush.mem⟩
    | unknownMnemonic c => exact ⟨_, step_branch_to_rejected hf ht hok hd rfl, rfl⟩
    | registerOutOfRange f => exact ⟨_, step_branch_to_rejected hf ht hok hd rfl, rfl⟩

/-! ### A branch in an otherwise empty block (R260, R261) -/

theorem decodeRecord_of_decodes {r : Raw} (h : decodes r = true) : ∃ d, decodeRecord r = .ok d := by
  cases hd : decodeRecord r with
  | ok d => exact ⟨d, rfl⟩
  | error e => simp [decodes, hd] at h

/-- `i`, its operands read from the registers of `s`, is a branch that is taken (R262). -/
def State.branchesOn (s : State) (i : Instr) : Bool :=
  branchTaken i.record.op (alu i.record.op (s.readReg i.record.rs1) (s.readReg i.record.rs2) i.record.imm)

theorem branchesOn_beq_iff {rs1 rs2 imm : Field} {s : State} :
    s.branchesOn (.beq rs1 rs2 imm) = true ↔ s.readReg (regIx rs1) = s.readReg (regIx rs2) :=
  beqTaken_sub_iff _ _

theorem branchesOn_blt_iff {rs1 rs2 imm : Field} {s : State} :
    s.branchesOn (.blt rs1 rs2 imm) = true ↔ (s.readReg (regIx rs1) - s.readReg (regIx rs2)).getLsbD 31 = true :=
  Iff.rfl

section
variable {i : Instr} {s u : State} (h : AloneInEM i s u)
include h

/-- The branch decides on the registers it was fetched with: nothing in the block could forward to it. -/
theorem AloneInEM.takesBranch_eq : takesBranch u = s.branchesOn i := by
  rw [takesBranch, State.branchesOn, h.em_valid, h.em_dec, h.em_alu, Bool.true_and]

theorem AloneInEM.branchTarget_eq : branchTarget u.em.pc u.em.dec.imm = branchTarget s.pc i.record.imm := by
  rw [h.em_pc, h.em_dec]

theorem AloneInEM.progAt (a : Word) : u.progAt a = s.progAt a := by
  rw [State.progAt, State.progAt, h.prog]

/-- With nothing in MW, a taken branch leaves the registers as they were at its fetch. -/
theorem AloneInEM.flush_regs {t : State} (hflush : BranchFlush u t) : t.regs = s.regs := by
  rw [hflush.regs, nsX1_of_invalid h.mw_valid, h.regs]

/-- A branch that is not taken passes MEM and WB and does nothing there (R260, R261). -/
theorem AloneInEM.branch_retires (hop : i.record.op = .beq ∨ i.record.op = .blt) (hno : s.branchesOn i = false)
    (hs : SentinelAt s (s.pc + 4)) :
    ∃ v, runs 2 u = .next v ∧ Drained v ∧ v.stillActive = false ∧ v.regs = s.regs ∧ v.mem = s.mem ∧
      v.pc = s.pc + 4 ∧ v.cycle = s.cycle + 5 ∧ v.faultInfo = s.faultInfo := by
  have hplain : i.record.op ≠ .lw ∧ i.record.op ≠ .sw := by rcases hop with hop | hop <;> simp [hop]
  obtain ⟨hlw, hsw⟩ := hplain
  have hmem := memory_plain h.em_valid (by rwa [h.em_dec]) (by rwa [h.em_dec]) (h.takesBranch_eq.trans hno)
  obtain ⟨v, hruns, hdr, hactive, hregs, hvmem, hrest⟩ := h.retires hmem rfl rfl rfl hs
  have hw : writesReg u.copyToMW.mw.dec.op = false := by simp [h.em_dec, writesReg_of_branch hop]
  refine ⟨v, hruns, hdr, hactive, ?_, hvmem.trans h.mem, hrest⟩
  rw [hregs, nsX1_of_not_writesReg hw]
  exact h.regs

variable (ht : s.branchesOn i = true) {target : Int} (htarget : branchTarget s.pc i.record.imm = target)
include ht htarget

/-- A branch taken to a line that decodes stands in MW after its Memory cycle, with that line in FD. -/
theorem AloneInEM.branch_fetches (hok : targetOk target = true) (hline : decodes (s.progAt (u32 target)) = true) :
    ∃ v, runs 1 u = .next v ∧ v.fault = false ∧ v.fd.valid = true ∧ v.fd.raw = s.progAt (u32 target) ∧
      v.fd.pc = u32 target ∧ v.pc = u32 target + 4 ∧ v.de.valid = false ∧ v.em.valid = false ∧ v.mw.valid = true ∧
      v.mw.raw = encode i ∧ v.regs = s.regs ∧ v.mem = s.mem ∧ v.stillActive = true ∧ v.cycle = s.cycle + 4 := by
  subst htarget
  obtain ⟨d, hd⟩ := decodeRecord_of_decodes hline
  rw [← h.branchTarget_eq] at hok hd ⊢
  rw [← h.progAt] at hd ⊢
  obtain ⟨v, hstep, hflush, hfd, hraw, haddr, hpc⟩ := step_branch_to_line h.fault (h.takesBranch_eq.trans ht) hok hd
  exact ⟨v, (runs_one u).trans hstep, hflush.fault, hfd, hraw, haddr, hpc, hflush.de_valid, hflush.em_valid,
    hflush.mw_valid, hflush.mw_raw.trans h.em_raw, h.flush_regs hflush, hflush.mem.trans h.mem, hflush.stillActive,
    by rw [hflush.cycle, h.cycle]⟩

/-- A branch taken to the sentinel retires from MW into a drained block at the target. -/
theorem AloneInEM.branch_drains (hok : targetOk target = true) (hend : SentinelAt s (u32 target)) :
    ∃ v, runs 2 u = .next v ∧ Drained v ∧ v.stillActive = false ∧ v.regs = s.regs ∧ v.mem = s.mem ∧
      v.pc = u32 target ∧ v.cycle = s.cycle + 5 ∧ v.faultInfo = s.faultInfo := by
  have htu := h.takesBranch_eq.trans ht
  subst htarget
  rw [← h.branchTarget_eq] at hok hend ⊢
  obtain ⟨t, hstep, hflush, hfd, hpc⟩ := step_branch_to_sentinel h.fault htu hok
    (by rw [h.progAt]; exact decodeRecord_sentinel hend)
  have hst : SentinelAt t t.pc := by rw [hpc]; exact sentinelAt_of_prog_eq hend (hflush.prog.trans h.prog)
  obtain ⟨v, hv, vregs, vmem, vpc, -, vdrained, vactive, vinfo, vcycle⟩ :=
    step_alone_in_MW hflush.fault hfd hflush.de_valid hflush.em_valid hst
  have hw : writesReg t.mw.dec.op = false := by rw [hflush.mw_dec]; exact writesReg_of_branch (op_of_takesBranch htu)
  refine ⟨v, (runs_succ hstep).trans (runs_succ hv), vdrained, vactive, ?_, ?_, vpc.trans hpc, ?_, ?_⟩
  · rw [vregs, nsX1_of_not_writesReg hw, h.flush_regs hflush]
  · rw [vmem, hflush.mem, h.mem]
  · rw [vcycle, hflush.cycle, h.cycle]
  · rw [vinfo, hflush.faultInfo, h.faultInfo]

/-- BranchTargetError is recorded in the Memory cycle, with nothing else of the block changed since the fetch (R265,
R283). -/
theorem AloneInEM.branch_raises (hbad : targetOk target = false) :
    ∃ v, runs 1 u = .next v ∧ v.fault = true ∧
      v.faultInfo = some { code := .branchTarget, reason := .none, cycle := s.cycle + 4, pc := s.pc, value := target } ∧
      v.stillActive = false ∧ v.regs = s.regs ∧ v.mem = s.mem ∧ v.pc = s.pc + 4 ∧ v.cycle = s.cycle + 4 := by
  have htu : branchTarget u.em.pc u.em.dec.imm = target := h.branchTarget_eq.trans htarget
  have hstep := step_badTarget h.fault (h.takesBranch_eq.trans ht) (by rwa [htu])
  rw [htu, h.em_pc] at hstep
  refine ⟨_, (runs_one u).trans hstep, rfl, ?_, rfl, h.regs, h.mem, h.pc, ?_⟩
  · simp [targetError, h.cycle]
  · simp [h.cycle]

end

/-- A branch from its fetch into a drained block, with the sentinel behind it: whether it is taken and where to decide
between four ends (R260 to R266, R283). -/
theorem fetched_branch_completes {i : Instr} {s : State} (hdr : Drained s) (hwf : WellFormed i = true)
    (hs : SentinelAt s (s.pc + 4)) (hop : i.record.op = .beq ∨ i.record.op = .blt)
    {taken : Prop} (hiff : s.branchesOn i = true ↔ taken)
    {target : Int} (htarget : branchTarget s.pc i.record.imm = target) :
    (¬ taken → ∃ t u, exec i s = .next t ∧ runs 4 t = .next u ∧ Drained u ∧ u.stillActive = false ∧
      u.regs = s.regs ∧ u.mem = s.mem ∧ u.pc = s.pc + 4 ∧ u.cycle = s.cycle + 5 ∧ u.faultInfo = s.faultInfo) ∧
    (taken → 0 ≤ target → target < 2 ^ 32 → target % 4 = 0 →
      (decodes (s.progAt (u32 target)) = true →
        ∃ t u, exec i s = .next t ∧ runs 3 t = .next u ∧ u.fault = false ∧
          u.fd.valid = true ∧ u.fd.raw = s.progAt (u32 target) ∧ u.fd.pc = u32 target ∧ u.pc = u32 target + 4 ∧
          u.de.valid = false ∧ u.em.valid = false ∧ u.mw.valid = true ∧ u.mw.raw = encode i ∧
          u.regs = s.regs ∧ u.mem = s.mem ∧ u.stillActive = true ∧ u.cycle = s.cycle + 4) ∧
      (SentinelAt s (u32 target) →
        ∃ t u, exec i s = .next t ∧ runs 4 t = .next u ∧ Drained u ∧ u.stillActive = false ∧
          u.regs = s.regs ∧ u.mem = s.mem ∧ u.pc = u32 target ∧ u.cycle = s.cycle + 5 ∧
          u.faultInfo = s.faultInfo)) ∧
    (taken → (target < 0 ∨ 2 ^ 32 ≤ target ∨ target % 4 ≠ 0) →
      ∃ t u, exec i s = .next t ∧ runs 3 t = .next u ∧ u.fault = true ∧
        u.faultInfo = some { code := .branchTarget, reason := .none, cycle := s.cycle + 4, pc := s.pc, value := target } ∧
        u.stillActive = false ∧ u.regs = s.regs ∧ u.mem = s.mem ∧ u.pc = s.pc + 4 ∧ u.cycle = s.cycle + 4) := by
  have hexec := exec_drained hdr hwf
  obtain ⟨w, h, hruns⟩ := fetched_reaches_EM hdr hwf hs
  refine ⟨fun hno => ?_, fun ht h0 hlt h4 => ⟨fun hline => ?_, fun hend => ?_⟩, fun ht hbad => ?_⟩
  · obtain ⟨v, hrun, hv⟩ := h.branch_retires hop (Bool.eq_false_iff.mpr (hno ∘ hiff.mp)) hs
    exact ⟨_, v, hexec, (hruns 2).trans hrun, hv⟩
  · obtain ⟨v, hrun, hv⟩ := h.branch_fetches (hiff.mpr ht) htarget ((targetOk_iff _).mpr ⟨h0, hlt, h4⟩) hline
    exact ⟨_, v, hexec, (hruns 1).trans hrun, hv⟩
  · obtain ⟨v, hrun, hv⟩ := h.branch_drains (hiff.mpr ht) htarget ((targetOk_iff _).mpr ⟨h0, hlt, h4⟩) hend
    exact ⟨_, v, hexec, (hruns 2).trans hrun, hv⟩
  · obtain ⟨v, hrun, hv⟩ := h.branch_raises (hiff.mpr ht) htarget (targetOk_eq_false_iff.mpr hbad)
    exact ⟨_, v, hexec, (hruns 1).trans hrun, hv⟩

/-- Settles O42: the difference that reaches EM is 0 exactly where the registers are equal. -/
theorem beqCompletes : Obligations.BeqCompletes := by
  intro rs1 rs2 imm s hdr hwf hs taken target
  have htarget : branchTarget s.pc imm = target := rfl
  exact fetched_branch_completes hdr hwf hs (.inl rfl) branchesOn_beq_iff htarget

/-- Settles O43: as O42, with bit 31 of the difference that reaches EM. -/
theorem bltCompletes : Obligations.BltCompletes := by
  intro rs1 rs2 imm s hdr hwf hs taken target
  have htarget : branchTarget s.pc imm = target := rfl
  exact fetched_branch_completes hdr hwf hs (.inr rfl) branchesOn_blt_iff htarget

end Sys2Proof.Machine

/-! PROOFS. Entering a fault (60_exceptions.md R281 to R285): which sub-step a raise comes from, what the cycle it ends
records, and, read back from the record, what stood in EM. -/

namespace Sys2Proof.Machine

/-! ### Where a raise comes from -/

/-- A rejection by the decoder raises DecodeError and no other fault (R280). -/
theorem code_of_decodeAbort {lookup : Word} {e : Reject} {r : Raise} (h : decodeAbort lookup e = .raise r) :
    r.code = .decodeError := by
  cases e with
  | sentinel => cases h
  | unknownMnemonic c => cases h; rfl
  | registerOutOfRange f => cases h; rfl

/-- Only MEM, ID and STALL_IF leave a cycle early, the last two through a rejection by the decoder. -/
theorem subSteps_error {port : Raw} {s : State} {a : Abort} (h : subSteps port s = .error a) :
    memory (writeback s) = .error a ∨ ∃ lookup e, a = decodeAbort lookup e := by
  cases hmem : memory (writeback s) with
  | error a' =>
    simp only [subSteps, beforeFetch, hmem] at h
    cases h
    exact .inl rfl
  | ok s1 =>
    cases h3 : beforeFetch s with
    | error a' =>
      simp only [subSteps, h3] at h
      cases h
      rw [beforeFetch_eq hmem] at h3
      obtain ⟨e, -, -, rfl⟩ := decodeStage_error h3
      exact .inr ⟨_, e, rfl⟩
    | ok s3 =>
      simp only [subSteps, h3] at h
      obtain ⟨e, -, -, rfl⟩ := stallOrFetch_error h
      exact .inr ⟨_, e, rfl⟩

/-- The three faults, each with what raises it (R280, R281, R283). -/
theorem subSteps_raise_cases {port : Raw} {s : State} {r : Raise} (h : subSteps port s = .error (.raise r)) :
    r.code = .decodeError ∨
    (s.em.valid = true ∧ (s.em.dec.op = .lw ∨ s.em.dec.op = .sw) ∧ 64 ≤ s.em.alu.toNat ∧
      r = boundsError s.em.pc s.em.alu) ∨
    (takesBranch s = true ∧ targetOk (branchTarget s.em.pc s.em.dec.imm) = false ∧
      r = targetError s.em.pc (branchTarget s.em.pc s.em.dec.imm)) := by
  rcases subSteps_error h with hmem | ⟨lookup, e, habort⟩
  · rcases memory_error hmem with ⟨hv, hop, hbound, hr⟩ | ⟨ht, hbad, hr⟩
    · cases hr
      have hge : ¬ s.em.alu.toNat < 64 := by
        rw [← wordIndex_lt_iff]
        simpa using hbound
      exact .inr (.inl ⟨by simpa using hv, by simpa using hop, not_lt.mp hge, by simp⟩)
    · cases hr
      exact .inr (.inr ⟨by simpa using ht, by simpa using hbad, by simp⟩)
  · exact .inl (code_of_decodeAbort habort.symm)

/-! ### Into the fault and back -/

theorem advance_raise {port : Raw} {s : State} {r : Raise} (hf : s.fault = false)
    (h : subSteps port s = .error (.raise r)) : advance port s = .next (s.takeFault r) := by
  simp [advance, hf, h]

/-- A cycle that enters a fault has a raise behind it, and is that raise's entry (R282). -/
theorem faultingCycle_raise {s t : State} (h : CycleTo s t) (hs : s.fault = false) (ht : t.fault = true) :
    ∃ port r, subSteps port s = .error (.raise r) ∧ t = s.takeFault r := by
  obtain ⟨port, hadv⟩ := advance_of_cycleTo h
  rcases advance_next hadv with ⟨hfault, -⟩ | ⟨-, s4, b, hsub, rfl⟩ | ⟨-, r, hsub, rfl⟩
  · simp [hs] at hfault
  · simp [subSteps_fault hsub, hs] at ht
  · exact ⟨port, r, hsub, rfl⟩

/-- The record of a fault carries the code of the raise behind it. -/
theorem faultingCycle_code {s t : State} {info : FaultInfo} (h : CycleTo s t) (hs : s.fault = false)
    (ht : t.fault = true) (hinfo : t.faultInfo = some info) :
    ∃ port r, subSteps port s = .error (.raise r) ∧ r.code = info.code := by
  obtain ⟨port, r, hsub, rfl⟩ := faultingCycle_raise h hs ht
  rw [takeFault_faultInfo] at hinfo
  cases hinfo
  exact ⟨port, r, hsub, rfl⟩

/-- Settles O24: a faulting cycle is an entry into a fault, which keeps the state the cycle began with. -/
theorem faultUndoesTheCycle : Obligations.FaultUndoesTheCycle := by
  refine ⟨fun s t h hs ht => ?_, fun s r hf hsub => ?_⟩
  · obtain ⟨-, r, -, rfl⟩ := faultingCycle_raise h hs ht
    exact ⟨_, rfl, rfl⟩
  · exact ⟨_, (step_eq_advance s).trans (advance_raise hf hsub), rfl⟩

/-- Settles O29: a raise of MEM ends the cycle before the port is looked at, so every port gives one next state. -/
theorem memoryFaultComesFirst : Obligations.MemoryFaultComesFirst := by
  intro s r hf hmem
  exact ⟨s.takeFault r, rfl, (step_eq_advance s).trans (advance_raise_memory hf hmem),
    fun i => (exec_eq_advance i s).trans (advance_raise_memory hf hmem)⟩

/-! ### The two faults of the Memory sub-step (R281, R283) -/

theorem step_outOfBounds {s : State} (hf : s.fault = false) (hv : s.em.valid = true)
    (hop : s.em.dec.op = .lw ∨ s.em.dec.op = .sw) (hge : 64 ≤ s.em.alu.toNat) :
    step s = .next (s.takeFault (boundsError s.em.pc s.em.alu)) := by
  have hno : ¬ wordIndex s.em.alu < Config.dmemWords := by
    rw [wordIndex_lt_iff]
    exact not_lt.mpr hge
  have hmem := memory_bounds (s := writeback s) (by simpa using hv) (by simpa using hop) (by simpa using hno)
  exact (step_eq_advance s).trans (advance_raise_memory hf (by simpa using hmem))

/-- Settles O26: `step_outOfBounds` one way; the other way, no other raise carries code 2. -/
theorem memoryBoundsErrorIsRecorded : Obligations.MemoryBoundsErrorIsRecorded := by
  refine ⟨rfl, rfl, fun s hf hv hop hge => ⟨_, step_outOfBounds hf hv hop hge, rfl⟩, ?_⟩
  intro s t info h hs ht hinfo hcode
  obtain ⟨port, r, hsub, hr⟩ := faultingCycle_code h hs ht hinfo
  rw [hcode] at hr
  rcases subSteps_raise_cases hsub with hdecode | ⟨hv, hop, hge, -⟩ | ⟨-, -, rfl⟩
  · simp [hr] at hdecode
  · exact ⟨hv, hop, hge⟩
  · cases hr

/-- Settles O27: `step_badTarget` one way; the other way, no other raise carries code 3. -/
theorem branchTargetErrorIsRecorded : Obligations.BranchTargetErrorIsRecorded := by
  refine ⟨rfl, rfl, fun s hf ht hbad => ⟨_, step_badTarget hf ht (targetOk_eq_false_iff.mpr hbad), rfl⟩, ?_⟩
  intro s t info h hs ht hinfo hcode
  obtain ⟨port, r, hsub, hr⟩ := faultingCycle_code h hs ht hinfo
  rw [hcode] at hr
  rcases subSteps_raise_cases hsub with hdecode | ⟨-, -, -, rfl⟩ | ⟨htaken, hbad, -⟩
  · simp [hr] at hdecode
  · cases hr
  · exact ⟨htaken, targetOk_eq_false_iff.mp hbad⟩

end Sys2Proof.Machine

/-! PROOFS. The first cycle after reset (70_reset_and_hazards.md R322): what a step of a drained block is for each answer
of the program source, and the loaded block as the drained block whose fetch reads line 0. -/

namespace Sys2Proof.Machine

/-! ### A step of a drained block -/

theorem fetchAddr_drained {s : State} (hdr : Drained s) : fetchAddr s = s.pc := by
  obtain ⟨-, -, -, hem, -⟩ := hdr
  exact fetchAddr_of_not_takesBranch (by simp [takesBranch, hem])

theorem fetchRaw_drained {s : State} (hdr : Drained s) : fetchRaw s = s.progAt s.pc := by
  rw [fetchRaw, fetchAddr_drained hdr]

/-- A drained block at a line that decodes fetches it: an empty DE cannot stall the fetch (R200). -/
theorem step_drained_of_decodes {s : State} {d : Decoded} (hdr : Drained s)
    (hd : decodeRecord (s.progAt s.pc) = .ok d) :
    step s = .next (((s.setFwd FwdSlot.none FwdSlot.none).fetch (s.progAt s.pc)).endCycle false) := by
  have hbefore := beforeFetch_drained hdr
  rw [step_eq_advance, fetchRaw_drained hdr]
  obtain ⟨hf, -, hde, -, -⟩ := hdr
  exact advance_fetch hf hbefore hd (by simp [loadUse, hde])

/-- A drained block at a line the decoder rejects records that, with the pc as the address (R280). -/
theorem step_drained_of_rejected {s : State} {e : Reject} {r : Raise} (hdr : Drained s)
    (hd : decodeRecord (s.progAt s.pc) = .error e) (hr : decodeAbort s.pc e = .raise r) :
    step s = .next (s.takeFault r) := by
  rw [← fetchRaw_drained hdr] at hd
  rw [← fetchAddr_drained hdr] at hr
  exact step_of_rejected hdr.1 (beforeFetch_drained hdr) hd hr

/-! ### The block right after its program is loaded (R320, R325) -/

theorem drained_loaded (p : List Raw) : Drained { State.reset with prog := p } := ⟨rfl, rfl, rfl, rfl, rfl⟩

theorem progAt_loaded (p : List Raw) (a : Word) :
    State.progAt { State.reset with prog := p } a = p.getD (a.toNat / Config.ilen) Raw.sentinel := rfl

/-- Settles O34: the loaded block is drained with its pc at line 0, and one case per answer of the decoder says what its
step is. -/
theorem firstCycleFetchesLineZero : Obligations.FirstCycleFetchesLineZero := by
  intro p line
  have hdr := drained_loaded p
  have hline : State.progAt { State.reset with prog := p } State.reset.pc = line := progAt_loaded p 0
  cases hd : decodeRecord line with
  | ok d =>
    have hstep := step_drained_of_decodes hdr (hline ▸ hd)
    exact ⟨_, hstep, rfl, rfl, rfl, rfl, rfl, rfl, rfl, rfl, hline, rfl, rfl, rfl⟩
  | error e =>
    cases e with
    | sentinel =>
      have hnop : SentinelAt { State.reset with prog := p } State.reset.pc := by
        rw [SentinelAt, hline]
        exact tok_of_decodeRecord_sentinel hd
      have hstep := step_drained_at_sentinel hdr hnop
      exact ⟨_, hstep, rfl, rfl, rfl, rfl, rfl, rfl, rfl, rfl, rfl, rfl⟩
    | unknownMnemonic c =>
      have hstep := step_drained_of_rejected hdr (hline ▸ hd) rfl
      exact ⟨_, hstep, rfl, rfl, rfl, rfl, rfl, rfl, rfl, rfl, rfl, rfl⟩
    | registerOutOfRange f =>
      have hstep := step_drained_of_rejected hdr (hline ▸ hd) rfl
      exact ⟨_, hstep, rfl, rfl, rfl, rfl, rfl, rfl, rfl, rfl, rfl, rfl⟩

end Sys2Proof.Machine
